-- ==== Sys2Proof/Word.lean ====
section
/-! DEFINITION. The words of the core: the widths the spec fixes and the framing width. -/

namespace Sys2Proof

/-- A byte: one RES element, one Scratchpad byte, one WIRE byte (R122, R127, R131). -/
abbrev Byte := BitVec 8

/-- One CMD element, format ECMD: bit 8 is `RST`, bits 7:0 are `DATA` (R121). -/
abbrev Elem := BitVec 9

/-- One word of the HOST space (R80, R97). -/
abbrev HWord := BitVec 32

/-- A 64-bit device identifier; bit i is the bit found at search position i (R130). -/
abbrev RomCode := BitVec 64

/-- The framing width W: `w8` is FRAMING = 0 (W = 8), `w1` is FRAMING = 1 (W = 1) (R39). -/
inductive Framing where
  | w8
  | w1
deriving DecidableEq, Repr

/-- W, the number of bit slots of one transfer element (R39). -/
def Framing.width : Framing → Nat
  | .w8 => 8
  | .w1 => 1

/-- The FRAMING register bit that stands for a width (R39). -/
def Framing.bit : Framing → Bool
  | .w8 => false
  | .w1 => true

end Sys2Proof
end

