-- ==== Sys2Proof/Config.lean ====
section
/-! DEFINITION. What an implementation fixes (parameters, plain data with the spec's defaults) and the free
values (constants without a body: nothing in Lean knows what they are). -/

namespace Sys2Proof

/-- The implementation parameters of R12 to R15, and the two the spec leaves to a model: U5's bound on poll reads at
Level T and U4's latency of CONTROLLER at Level C. State carries one value of this type and no step changes it;
every statement is made for all values that meet `Params.wf`. -/
structure Params where
  /-- `T_RSTL`, ticks the reset pulse is low (R12). -/
  tRstl : Nat
  /-- `T_PDS`, ticks from release to the presence sample (R12). -/
  tPds : Nat
  /-- `T_RSTREC`, recovery ticks after a reset sequence (R12). -/
  tRstrec : Nat
  /-- `T_LOW`, ticks of the low assertion that starts a slot (R12). -/
  tLow : Nat
  /-- `T_SMP`, ticks from release to the sample (R12). -/
  tSmp : Nat
  /-- `T_SLOT`, ticks of a slot (R12). -/
  tSlot : Nat
  /-- `T_REC`, recovery ticks between slots (R12). -/
  tRec : Nat
  /-- `FIFO_DEPTH`, capacity of CMD and of RES (R13). -/
  fifoDepth : Nat
  /-- `N_MAX`, capacity of the ROM table and of the reading table (R14). -/
  nMax : Nat
  /-- `T_POLL_BUDGET`, ticks of the completion poll (R15). -/
  tPollBudget : Nat
  /-- `T_POLL_GAP`, ticks between two poll reads (R15). -/
  tPollGap : Nat
  /-- `POLL_MAX_READS`, the number of poll reads at Level T (93_implementation_defined.md U5, the `parameter`
  treatment; notes/assumptions/6.md). -/
  pollMaxReads : Nat
  /-- Ticks CONTROLLER waits after each of its steps at Level C: `some n` a fixed number, `none` a fresh free value
  at each step (U4; notes/assumptions/7.md). -/
  ctlLatency : Option Nat
deriving DecidableEq, Repr

/-- The defaults of R12 to R15 and of U5; CONTROLLER's latency is free. -/
def Params.default : Params where
  tRstl := 500
  tPds := 70
  tRstrec := 400
  tLow := 1
  tSmp := 15
  tSlot := 60
  tRec := 5
  fifoDepth := 4
  nMax := 8
  tPollBudget := 1000000
  tPollGap := 10000
  pollMaxReads := 96
  ctlLatency := none

/-- The constraints of R12 (every timing parameter at least 1, `T_LOW + T_SMP < T_SLOT`), R13, R14, R15 and U5. -/
abbrev Params.wf (p : Params) : Prop :=
  (1 ≤ p.tRstl ∧ 1 ≤ p.tPds ∧ 1 ≤ p.tRstrec ∧ 1 ≤ p.tLow ∧ 1 ≤ p.tSmp ∧ 1 ≤ p.tRec ∧ p.tLow + p.tSmp < p.tSlot) ∧
  4 ≤ p.fifoDepth ∧
  (1 ≤ p.nMax ∧ p.nMax ≤ 64) ∧
  (1 ≤ p.tPollBudget ∧ p.tPollBudget < 2 ^ 20 ∧ p.tPollGap < 2 ^ 14) ∧
  1 ≤ p.pollMaxReads

/-- Free value: the line level at the n-th sample no device model answers (U2: any value, drawn at each sample). -/
opaque Config.freeLevel : Nat → Bool

/-- Free value: the result word of a host read while BUSY = 1 (U1: any value, drawn at each read). -/
opaque Config.freeWord : Nat → HWord

/-- Free value: the ticks CONTROLLER lets pass between two of its steps at Level C (U4: any finite value). -/
opaque Config.freeLatency : Nat → Nat

/-- Free value: what a read of `ROM[k]` gives for an index k that is no entry of the table (R49 gives entries
k < N_MAX only, while R46 lets `DM.k` reach N_MAX). -/
opaque Config.freeRomEntry : Nat → RomCode

end Sys2Proof
end

