-- ==== Sys2Proof/Syntax.lean ====
section
/-! DEFINITION. The operations of the core, one constructor per row of spec/opcode_table.json (R120, R137). -/

namespace Sys2Proof

/-- The 22 operations of the five layers of R120 and the pure functions.
HOST: `nop` to `reinit`. BC (BusController): `reset` to `setFraming`. ENG (ENGINE): `eReset` to `eReinit`.
WIRE: `searchCmd` to `readScratchpad`. FN: `crc8` to `resDecode`. -/
inductive Instr where
  /-- HOST `NOP` (R301). -/
  | nop
  /-- HOST `DISCOVER` (R302). -/
  | discover
  /-- HOST `SAMPLE_ALL` (R303). -/
  | sampleAll
  /-- HOST `REINIT` (R304). -/
  | reinit
  /-- BC `RESET` (R200). -/
  | reset
  /-- BC `WRITE_BYTE v` (R201). -/
  | writeByte (v : Byte)
  /-- BC `READ_BYTE` (R202). -/
  | readByte
  /-- BC `WRITE_BIT b` (R203). -/
  | writeBit (b : Bool)
  /-- BC `READ_BIT` (R204). -/
  | readBit
  /-- BC `SET_FRAMING w` (R205). -/
  | setFraming (w : Framing)
  /-- ENG `E.RESET` (R161); the DATA field is ignored and is no operand. -/
  | eReset
  /-- ENG `E.XFER8 d` (R162). -/
  | eXfer8 (d : Byte)
  /-- ENG `E.XFER1 b` (R162); DATA[7:1] is ignored and is no operand. -/
  | eXfer1 (b : Bool)
  /-- ENG sideband `E.REINIT w` (R176). -/
  | eReinit (w : Framing)
  /-- WIRE `SEARCH_CMD` 0xF0 (R232). -/
  | searchCmd
  /-- WIRE `ADDRESS_ONE` 0x55 (R267). -/
  | addressOne
  /-- WIRE `ADDRESS_ALL` 0xCC (R262). -/
  | addressAll
  /-- WIRE `START_CONVERSION` 0x44 (R263). -/
  | startConversion
  /-- WIRE `READ_SCRATCHPAD` 0xBE (R268). -/
  | readScratchpad
  /-- FN `CRC8(s)` of a finite byte sequence (R220). -/
  | crc8 (s : List Byte)
  /-- FN `TEMP_DECODE(sp)` of a Scratchpad (R272). -/
  | tempDecode (sp : List Byte)
  /-- FN `RES_DECODE(sp)` of a Scratchpad (R273). -/
  | resDecode (sp : List Byte)
deriving DecidableEq, Repr

end Sys2Proof
end

