-- ==== Sys2Proof/WellFormed.lean ====
section
/-! DEFINITION. Which instructions are well formed: the operand of the two decode functions is a Scratchpad. -/

namespace Sys2Proof

/-- A Scratchpad is 9 bytes (R16, R131). -/
def scratchpadLength : Nat := 9

/-- Well-formedness of an instruction. Every operand but a Scratchpad has its range in its type; CRC8 takes any
finite sequence, the empty one included (R220). -/
def Instr.wellFormed : Instr → Bool
  | .nop | .discover | .sampleAll | .reinit => true
  | .reset | .writeByte _ | .readByte | .writeBit _ | .readBit | .setFraming _ => true
  | .eReset | .eXfer8 _ | .eXfer1 _ | .eReinit _ => true
  | .searchCmd | .addressOne | .addressAll | .startConversion | .readScratchpad => true
  | .crc8 _ => true
  | .tempDecode sp => sp.length == scratchpadLength
  | .resDecode sp => sp.length == scratchpadLength

end Sys2Proof
end

