-- ==== Sys2Proof/Decode.lean ====
section
/-! DEFINITION. Decoding at each layer (R120 to R127, R133, R134), and after it the encoder.

The words of ten table rows coincide: a BusController operation "has no binary encoding of its own" and is named by
the element it emits (R120). What tells the rows apart is WHO takes the word and what it does with the result, so a
word is decoded together with its `Target` (notes/assumptions/2.md). -/

namespace Sys2Proof

/-- What BusController does with the element of a direct operation: the framing the operation is for, and whether
the popped result is dropped or kept (R136: "they differ only in whether CONTROLLER uses the popped result"). -/
inductive BcUse where
  | byteDrop
  | byteKeep
  | bitDrop
  | bitKeep
deriving DecidableEq, Repr

/-- Who takes a word. -/
inductive Target where
  /-- A word written to `CTRL`, format HCTRL, four bytes (R126). -/
  | host
  /-- BusController, by the element it emits, format ECMD, two bytes (R120, R121). -/
  | bc (use : BcUse)
  /-- BusController's framing change, format EFR, one byte (R125, R205). -/
  | bcFraming
  /-- ENGINE, an element popped while FRAMING is `w`, format ECMD, two bytes (R123, R124, R134). -/
  | eng (w : Framing)
  /-- ENGINE's framing sideband, format EFR, one byte (R125). -/
  | engSideband
  /-- A protocol byte, format WIRE8, one byte (R127). -/
  | wire
  /-- CRC8 of the bytes given (R220); the function has no bit pattern (R137), its operand is the word. -/
  | fnCrc8
  /-- TEMP_DECODE of the nine bytes given (R272). -/
  | fnTemp
  /-- RES_DECODE of the nine bytes given (R273). -/
  | fnRes
deriving DecidableEq, Repr

/-- Why bytes are no instruction of a target. -/
inductive DecodeError where
  /-- The target takes another number of bytes. -/
  | wrongLength
  /-- A bit above the format's width is set (ECMD has 9 bits, EFR 2). -/
  | bitAboveFormat
  /-- An EFR word with reinit = 0: "no operation" (R125); a step takes it and does nothing. -/
  | efrIdle
  /-- The element is not the one the BusController operation emits (R120, R200 to R204). -/
  | otherElement
  /-- Not one of the five protocol bytes of R127. -/
  | noWireByte
deriving DecidableEq, Repr

/-- Bit field `RST` of an ECMD element (R121). -/
def elemRst (e : Elem) : Bool := e.getLsbD 8

/-- Field `DATA` of an ECMD element (R121). -/
def elemData (e : Elem) : Byte := e.setWidth 8

/-- The HOST decoder: bits 1:0 of the word are `OP`, bits 31:2 are ignored (R126, R133). -/
def decodeHost (w : HWord) : Instr :=
  match w.getLsbD 1, w.getLsbD 0 with
  | false, false => .nop
  | false, true => .discover
  | true, false => .sampleAll
  | true, true => .reinit

/-- The ENGINE decoder of a popped element: `RST`, else the framing register selects (R123, R124, R134). -/
def decodeElem (w : Framing) (e : Elem) : Instr :=
  if elemRst e then .eReset
  else match w with
    | .w8 => .eXfer8 (elemData e)
    | .w1 => .eXfer1 (e.getLsbD 0)

/-- The BusController operation an element stands for (R120 and the rows RESET to READ_BIT of the table). -/
def decodeBc (use : BcUse) (e : Elem) : Except DecodeError Instr :=
  if e = 0x100#9 then .ok .reset
  else if elemRst e then .error .otherElement
  else match use with
    | .byteDrop => .ok (.writeByte (elemData e))
    | .byteKeep => if e = 0x0FF#9 then .ok .readByte else .error .otherElement
    | .bitDrop => if e = 0x000#9 then .ok (.writeBit false) else if e = 0x001#9 then .ok (.writeBit true) else .error .otherElement
    | .bitKeep => if e = 0x001#9 then .ok .readBit else .error .otherElement

/-- The protocol byte a WIRE8 byte is (R127). -/
def decodeWire (b : Byte) : Except DecodeError Instr :=
  if b = 0xF0#8 then .ok .searchCmd
  else if b = 0x55#8 then .ok .addressOne
  else if b = 0xCC#8 then .ok .addressAll
  else if b = 0x44#8 then .ok .startConversion
  else if b = 0xBE#8 then .ok .readScratchpad
  else .error .noWireByte

/-- The ECMD element in two bytes, the low byte first; bits 15:9 are no bits of the format (R121). -/
def elemOfBytes (b0 b1 : Byte) : Except DecodeError Elem :=
  if b1 = 0#8 then .ok (b0.setWidth 9)
  else if b1 = 1#8 then .ok (0x100#9 ||| b0.setWidth 9)
  else .error .bitAboveFormat

/-- The EFR word in one byte: `{reinit, width}` (R125). -/
def efrOfByte (b : Byte) : Except DecodeError Framing :=
  if b = 2#8 then .ok .w8
  else if b = 3#8 then .ok .w1
  else if b = 0#8 ∨ b = 1#8 then .error .efrIdle
  else .error .bitAboveFormat

/-- Decoding of the bytes given to a target. Total: it answers an instruction or the name of what is wrong. -/
def decode (t : Target) (bs : List Byte) : Except DecodeError Instr :=
  match t with
  | .host =>
    match bs with
    | [b0, b1, b2, b3] => .ok (decodeHost (b3 ++ b2 ++ b1 ++ b0))
    | _ => .error .wrongLength
  | .bc use =>
    match bs with
    | [b0, b1] =>
      match elemOfBytes b0 b1 with
      | .ok e => decodeBc use e
      | .error x => .error x
    | _ => .error .wrongLength
  | .eng w =>
    match bs with
    | [b0, b1] =>
      match elemOfBytes b0 b1 with
      | .ok e => .ok (decodeElem w e)
      | .error x => .error x
    | _ => .error .wrongLength
  | .bcFraming =>
    match bs with
    | [b] =>
      match efrOfByte b with
      | .ok w => .ok (.setFraming w)
      | .error x => .error x
    | _ => .error .wrongLength
  | .engSideband =>
    match bs with
    | [b] =>
      match efrOfByte b with
      | .ok w => .ok (.eReinit w)
      | .error x => .error x
    | _ => .error .wrongLength
  | .wire =>
    match bs with
    | [b] => decodeWire b
    | _ => .error .wrongLength
  | .fnCrc8 => .ok (.crc8 bs)
  | .fnTemp => if bs.length = scratchpadLength then .ok (.tempDecode bs) else .error .wrongLength
  | .fnRes => if bs.length = scratchpadLength then .ok (.resDecode bs) else .error .wrongLength

/-- The n low bytes of a number, least significant first (R91). -/
def natBytes : Nat → Nat → List Byte
  | 0, _ => []
  | n + 1, w => BitVec.ofNat 8 w :: natBytes n (w / 256)

/-- Where a word of spec/opcode_table.json is presented: `nbits` and `w` as the table numbers them. Rows that share a
word are told apart as a table does: the row with more fixed bits first, then the earlier row
(notes/assumptions/2.md). -/
def tableFetch (nbits w : Nat) : Option (Target × List Byte) :=
  if nbits = 32 then (if w < 2 ^ 32 then some (.host, natBytes 4 w) else none)
  else if nbits = 16 ∨ nbits = 9 then
    (if w = 0x0FF then some (.bc .byteKeep, natBytes 2 w)
     else if w = 0x001 then some (.bc .bitKeep, natBytes 2 w)
     else if w = 0x000 then some (.bc .bitDrop, natBytes 2 w)
     else if w ≤ 0x100 then some (.bc .byteDrop, natBytes 2 w)
     else if w < 0x200 then some (.eng .w8, natBytes 2 w)
     else none)
  else if nbits = 8 ∨ nbits = 2 then
    (if w < 4 then some (.bcFraming, natBytes 1 w)
     else if w < 256 then some (.wire, natBytes 1 w)
     else none)
  else if nbits = 0 then some (.fnCrc8, [])
  else none

/-- The instruction the decoder reads from a table word. -/
def decodeTableWord (nbits w : Nat) : Option Instr :=
  match tableFetch nbits w with
  | none => none
  | some (t, bs) =>
    match decode t bs with
    | .ok i => some i
    | .error _ => none

/-! The encoder, from the same tables. -/

/-- The two bytes of an ECMD element, low byte first (R121). -/
def bytesOfElem (rst : Bool) (d : Byte) : List Byte := [d, if rst then 1#8 else 0#8]

/-- The EFR byte `{1, width}` (R125). -/
def efrByte (w : Framing) : Byte := if w.bit then 3#8 else 2#8

/-- `zext_8` of a bit (R132). -/
def byteOfBit (b : Bool) : Byte := if b then 1#8 else 0#8

/-- The words of an instruction and the target that takes them; the ignored bits are 0 (R133). -/
def encode : Instr → Target × List Byte
  | .nop => (.host, [0x00#8, 0#8, 0#8, 0#8])
  | .discover => (.host, [0x01#8, 0#8, 0#8, 0#8])
  | .sampleAll => (.host, [0x02#8, 0#8, 0#8, 0#8])
  | .reinit => (.host, [0x03#8, 0#8, 0#8, 0#8])
  | .reset => (.bc .byteDrop, bytesOfElem true 0#8)
  | .writeByte v => (.bc .byteDrop, bytesOfElem false v)
  | .readByte => (.bc .byteKeep, bytesOfElem false 0xFF#8)
  | .writeBit b => (.bc .bitDrop, bytesOfElem false (byteOfBit b))
  | .readBit => (.bc .bitKeep, bytesOfElem false 1#8)
  | .setFraming w => (.bcFraming, [efrByte w])
  | .eReset => (.eng .w8, bytesOfElem true 0#8)
  | .eXfer8 d => (.eng .w8, bytesOfElem false d)
  | .eXfer1 b => (.eng .w1, bytesOfElem false (byteOfBit b))
  | .eReinit w => (.engSideband, [efrByte w])
  | .searchCmd => (.wire, [0xF0#8])
  | .addressOne => (.wire, [0x55#8])
  | .addressAll => (.wire, [0xCC#8])
  | .startConversion => (.wire, [0x44#8])
  | .readScratchpad => (.wire, [0xBE#8])
  | .crc8 s => (.fnCrc8, s)
  | .tempDecode sp => (.fnTemp, sp)
  | .resDecode sp => (.fnRes, sp)

end Sys2Proof
end

