-- ==== Sys2Proof/Machine/State.lean ====
section
/-! DEFINITION. The state of the core (10_state.md), of the agents around it (R5) and the model's own bookkeeping,
as plain data, and the reset state. -/

namespace Sys2Proof.Machine

/-- A step never faults: "There are no traps" (R320), "No double-fault condition, no halted state and no lockup state
exist" (R332), and ENGINE and HOST accesses raise nothing. The spec's five faults are STATUS flags (`Flags`), so this
type has no constructor. -/
inductive Fault where
deriving DecidableEq, Repr

/-- Why the model makes no claim from a step on. -/
inductive Refusal where
  /-- An instruction whose arm gives it no meaning; no arm of this model does. Safe. -/
  | notModelled (mnemonic : String)
  /-- SET_FRAMING issued while ENGINE is not quiescent: the one case R336(c), R373 and U3 call refused. Raised by
  `execSetFraming` and by CONTROLLER's own SET_FRAMING places. Safe. -/
  | framingNotQuiescent
  /-- The test harness's issue port holds bytes that are no instruction of their target. Raised by the fetch of an
  issued word; nothing the host can write is refused (R133). Safe. -/
  | undecodable (e : DecodeError)
deriving DecidableEq, Repr

/-- The two modelling levels of R11: one ENGINE step per element, or one step per tick. -/
inductive Level where
  | transaction
  | cycle
deriving DecidableEq, Repr

/-! ### Ports and the HOST agent -/

/-- The host-side inputs of one tick (R31). -/
structure HostCycle where
  rst : Bool
  hSel : Bool
  hWe : Bool
  hAddr : BitVec 10
  hWdata : HWord
deriving DecidableEq, Repr

/-- A tick without reset and without a host access. -/
def HostCycle.idle : HostCycle where
  rst := false
  hSel := false
  hWe := false
  hAddr := 0
  hWdata := 0

/-- The ports of R31. `clk` is the step itself and `ow_drive_low` is `ENG.drive`. -/
structure Ports where
  /-- `rst`, `h_sel`, `h_we`, `h_addr`, `h_wdata` at this tick. -/
  host : HostCycle
  /-- `ow_in`: at Level C the level of the line; at Level T, which has no line between two samples, the level at the
  last sample (notes/assumptions/9.md). -/
  owIn : Bool
  /-- `h_rdata`, the word the last host read gave. -/
  hRdata : HWord
deriving DecidableEq, Repr

/-! ### ENGINE -/

/-- `ENG.phase`: the eleven phases of R33. -/
inductive Phase where
  | idle
  | rstLow
  | rstWait
  | rstPush
  | rstRec
  | slLow
  | slWait1
  | slPad1
  | slHold0
  | slRec
  | elPush
deriving DecidableEq, Repr

/-- `BusState` of R58: no register, but a view of `ENG.phase` (`busState`). -/
inductive BusState where
  | idle
  | resetting
  | transferring
deriving DecidableEq, Repr

/-- The ENGINE registers of R33 to R38. `cnt` is a number, not 10 bits: R34 says a model with larger parameters widens
it, and the parameters are open here. -/
structure Engine where
  phase : Phase
  cnt : Nat
  osr : BitVec 8
  isr : BitVec 8
  nbit : BitVec 4
  cur : Bool
  drive : Bool
deriving DecidableEq, Repr

/-! ### CONTROLLER -/

/-- The BusController operation a place of a fixed sequence stands at (R230, R261). -/
inductive Place where
  /-- `p <- RESET` of PASS (R231). -/
  | passReset
  /-- `WRITE_BYTE 0xF0` (R232). -/
  | searchCmd
  /-- `RS.b1 <- READ_BIT` (R234). -/
  | readB1
  /-- `RS.b2 <- READ_BIT` (R234). -/
  | readB2
  /-- `WRITE_BIT RS.dir` (R239). -/
  | writeDir
  /-- `p <- RESET` of SAMPLE_START (R261). -/
  | sampleReset
  /-- `WRITE_BYTE 0xCC` (R262). -/
  | addrAll
  /-- `WRITE_BYTE 0x44` (R263). -/
  | startConv
  /-- `b <- READ_BYTE` of POLL (R264). -/
  | pollRead
  /-- `RESET` of DEV (R266). -/
  | devReset
  /-- `WRITE_BYTE 0x55` (R267). -/
  | addrOne
  /-- `WRITE_BYTE ROM[DM.k][8·DM.j+7 : 8·DM.j]` (R267). -/
  | addrByte
  /-- `WRITE_BYTE 0xBE` (R268). -/
  | readCmd
  /-- `DM.sp[DM.j] <- READ_BYTE` (R269). -/
  | spByte
deriving DecidableEq, Repr

/-- `CTL.seq` (R47): a label of R230, R260, R261, one of the two halves of a BusController operation, the wait of the
poll, or HOST_IDLE. PASS is `push passReset`, BIT is `push readB1`, POLL is `push pollRead`. CONTROLLER runs through the
labels between two channel steps in one step (R20; notes/assumptions/26.md). -/
inductive Seq where
  | hostIdle
  | discoverStart
  | searchStart
  | searchExit
  | sampleStart
  | readAll
  | dev
  | sampleDone
  /-- "…/push": waiting to push the CMD element of the operation. -/
  | push (p : Place)
  /-- "…/pop": waiting to pop its RES element. -/
  | pop (p : Place)
  /-- `wait until DM.gap_t = 0` (R264). -/
  | pollGap
deriving DecidableEq, Repr

/-- A discrepancy marker `{v, idx[5:0]}`: `none` is v = 0 (R44, R129). -/
abbrev Marker := Option (BitVec 6)

/-- The registers of the ROM search (R43 to R45). -/
structure Search where
  rom : RomCode
  last : Marker
  new : Marker
  i : BitVec 7
  b1 : Bool
  b2 : Bool
  dir : Bool
deriving DecidableEq, Repr

/-- The registers of DeviceManager (R46, R48). -/
structure DevMan where
  k : BitVec 7
  j : BitVec 4
  /-- `DM.sp[0..8]`. -/
  sp : List Byte
  crc : Byte
  pollT : BitVec 20
  gapT : BitVec 14
deriving DecidableEq, Repr

/-- `KIND` of a Reading (R51); 3 is never produced and has no constructor. -/
inductive Kind where
  | empty
  | temp
  | crcFail
deriving DecidableEq, Repr

/-- A Reading: KIND, RESF, T16 (R51). -/
structure Reading where
  kind : Kind
  resf : BitVec 2
  t16 : BitVec 16
deriving DecidableEq, Repr

/-- The Reading a table holds after reset (R62). -/
def Reading.empty : Reading where
  kind := .empty
  resf := 0
  t16 := 0

/-- The five fault flags, STATUS bits 8:4 (R54). BUSY and PRESENCE are views of `CTL.seq` and `BC.presence`. -/
structure Flags where
  busFault : Bool
  searchFault : Bool
  crcMismatch : Bool
  pollTimeout : Bool
  tableFull : Bool
deriving DecidableEq, Repr

/-- All five flags clear (R321 c). -/
def Flags.clear : Flags where
  busFault := false
  searchFault := false
  crcMismatch := false
  pollTimeout := false
  tableFull := false

/-! ### The BUS agent -/

/-- `d.state` of a reference device (R104). -/
inductive DevState where
  | idle
  | romCmd
  | search
  | matchRom
  | funcCmd
  | conv
  | readSp
deriving DecidableEq, Repr

/-- A reference device (R104): constants `rom`, `sp`, `conv`, variables the rest. -/
structure Device where
  rom : RomCode
  sp : List Byte
  conv : Nat
  state : DevState
  i : Nat
  ph : Nat
  sh : Byte
  n : Nat
  busy : Nat
deriving DecidableEq, Repr

/-- A reference device at rest. R104 says "Initially d.state = IDLE" and no more: that the counters `d.i`, `d.ph`, `d.sh`,
`d.n` and `d.busy` start at 0 is a DESIGN CHOICE (notes/assumptions/31.md). -/
def Device.init (rom : RomCode) (sp : List Byte) (conv : Nat) : Device where
  rom := rom
  sp := sp
  conv := conv
  state := .idle
  i := 0
  ph := 0
  sh := 0
  n := 0
  busy := 0

/-- Who answers the engine's samples (R5 d, R89, R90, U2). -/
inductive BusAgent where
  /-- No device model: every sample is a free value. -/
  | free
  /-- A list of levels, one for each sample, then free values. -/
  | script (levels : List Bool)
  /-- The reference bus of R104 to R115. -/
  | reference (devices : List Device)
deriving DecidableEq, Repr

/-! ### The state -/

/-- The whole state: the core's (R30), the agents' around it, and the model's own (INVENTORY.md lists which is which). -/
structure State where
  /-- The ports (R31). -/
  ports : Ports
  /-- ENGINE registers (R33 to R38). -/
  eng : Engine
  /-- `FRAMING` (R39). -/
  framing : Framing
  /-- `CMD`, head first (R40). -/
  cmd : List Elem
  /-- `RES`, head first (R41). -/
  res : List Byte
  /-- `BC.presence` (R42). -/
  presence : Bool
  /-- `RS.*` (R43 to R45). -/
  rs : Search
  /-- `DM.*` (R46, R48). -/
  dm : DevMan
  /-- `CTL.seq` (R47). -/
  seq : Seq
  /-- `ROM[0..N_MAX-1]` (R49). -/
  rom : List RomCode
  /-- `ROM_COUNT` (R50). -/
  romCount : BitVec 7
  /-- `RDG[0..N_MAX-1]` (R51). -/
  rdg : List Reading
  /-- `RDG_COUNT` (R52). -/
  rdgCount : BitVec 7
  /-- STATUS bits 8:4 (R54). -/
  flags : Flags
  /-- The parameters, which no step changes (R12 to R15). -/
  par : Params
  /-- The modelling level of this run (R11). -/
  level : Level
  /-- The BUS agent. -/
  bus : BusAgent
  /-- The HOST agent's later ticks, the next one first. -/
  inbox : List HostCycle
  /-- The test harness's issue port: a word presented directly to a target. -/
  issue : Option (Target × List Byte)
  /-- The value the last directly issued operation returned. -/
  ret : BitVec 16
  /-- Poll reads of this SAMPLE_ALL that did not return 0xFF, for U5 at Level T. -/
  pollReads : Nat
  /-- Ticks until CONTROLLER's next step, for U4 at Level C. -/
  ctlWait : Nat
  /-- How many free values have been drawn. -/
  draws : Nat
deriving DecidableEq, Repr

/-- ENGINE after reset (R61). -/
def Engine.reset : Engine where
  phase := .idle
  cnt := 0
  osr := 0
  isr := 0
  nbit := 0
  cur := false
  drive := false

/-- `RS.*` after reset (R63). -/
def Search.reset : Search where
  rom := 0
  last := none
  new := none
  i := 0
  b1 := false
  b2 := false
  dir := false

/-- `DM.*` after reset (R63). -/
def DevMan.reset : DevMan where
  k := 0
  j := 0
  sp := [0, 0, 0, 0, 0, 0, 0, 0, 0]
  crc := 0
  pollT := 0
  gapT := 0

/-- The reset state of a core with given parameters, level and BUS agent (R60 to R64). The fields that are no state of
the core have the values of notes/assumptions/8.md. -/
def State.resetWith (p : Params) (level : Level) (bus : BusAgent) : State where
  ports := { host := .idle, owIn := true, hRdata := 0 }
  eng := .reset
  framing := .w8
  cmd := []
  res := []
  presence := false
  rs := .reset
  dm := .reset
  seq := .hostIdle
  rom := List.replicate p.nMax 0
  romCount := 0
  rdg := List.replicate p.nMax .empty
  rdgCount := 0
  flags := .clear
  par := p
  level := level
  bus := bus
  inbox := []
  issue := none
  ret := 0
  pollReads := 0
  ctlWait := 0
  draws := 0

/-- The machine right after reset: default parameters, Level T, a bus whose every level is free. -/
def State.reset : State := State.resetWith .default .transaction .free

end Sys2Proof.Machine
end

