-- ==== Sys2Proof/Machine/Bus.lean ====
section
/-! DEFINITION. The BUS agent: the reference devices of R104 to R115 and the two calls of R89 and R90. -/

namespace Sys2Proof.Machine

/-- `v[i] <- b`. -/
def setBit {n : Nat} (v : BitVec n) (i : Nat) (b : Bool) : BitVec n :=
  if b then v ||| (1#n <<< i) else v &&& ~~~(1#n <<< i)

/-- `d.out`, the level device d allows in a slot (R105). -/
def Device.out (d : Device) : Bool :=
  match d.state with
  | .search =>
    if d.ph = 0 then d.rom.getLsbD d.i
    else if d.ph = 1 then !d.rom.getLsbD d.i
    else true
  | .conv => d.busy == 0
  | .readSp => if d.i < 72 then (d.sp.getD (d.i / 8) 0xFF#8).getLsbD (d.i % 8) else true
  | .idle | .romCmd | .matchRom | .funcCmd => true

/-- A device on a reset sequence (R106). -/
def Device.onReset (d : Device) : Device := { d with state := .romCmd, sh := 0, n := 0 }

/-- Collecting one bit of a command byte; at the eighth bit `done` takes the byte (R108, R111). -/
def Device.collect (d : Device) (level : Bool) (done : Byte → Device → Device) : Device :=
  let sh := setBit d.sh d.n level
  if d.n + 1 = 8 then done sh { d with sh := 0, n := 0 } else { d with sh := sh, n := d.n + 1 }

/-- What a device does with a ROM command byte (R108). -/
def Device.romCommand (c : Byte) (d : Device) : Device :=
  if c = 0xF0#8 then { d with state := .search, i := 0, ph := 0 }
  else if c = 0x55#8 then { d with state := .matchRom, i := 0 }
  else if c = 0xCC#8 then { d with state := .funcCmd }
  else { d with state := .idle }

/-- What a device does with a function command byte (R111). -/
def Device.funcCommand (c : Byte) (d : Device) : Device :=
  if c = 0x44#8 then { d with state := .conv, busy := d.conv }
  else if c = 0xBE#8 then { d with state := .readSp, i := 0 }
  else { d with state := .idle }

/-- A device whose code matched one more bit (R109, R110). -/
def Device.matched (d : Device) : Device :=
  if d.i + 1 = 64 then { d with state := .funcCmd, i := d.i + 1, sh := 0, n := 0 }
  else { d with i := d.i + 1 }

/-- A device on one slot with received bit `level` (R108 to R114). -/
def Device.onSlot (level : Bool) (d : Device) : Device :=
  match d.state with
  | .idle => d
  | .romCmd => d.collect level Device.romCommand
  | .search =>
    if d.ph < 2 then { d with ph := d.ph + 1 }
    else if level = d.rom.getLsbD d.i then { d.matched with ph := 0 }
    else { d with state := .idle }
  | .matchRom => if level = d.rom.getLsbD d.i then d.matched else { d with state := .idle }
  | .funcCmd => d.collect level Device.funcCommand
  | .conv => { d with busy := d.busy - 1 }
  | .readSp => { d with i := d.i + 1 }

/-- `AND over devices d of d.out` (R103). -/
def devicesOut (ds : List Device) : Bool := ds.all Device.out

/-- The level of the line: 0 while the core drives it low, else what the devices let through (R31, R103). On the
reference bus that is `AND over devices d of d.out`, and in RST_WAIT the presence level of R106; without a device model
it is the level the next sample will give (notes/assumptions/9.md). -/
def lineLevel (s : State) : Bool :=
  !s.eng.drive &&
    match s.bus with
    | .reference ds => if s.eng.phase = .rstWait then ds.isEmpty else devicesOut ds
    | .script (l :: _) => l
    | .script [] => Config.freeLevel s.draws
    | .free => Config.freeLevel s.draws

/-- At Level C the port `ow_in` shows the level of the line (R31, R103); at Level T it keeps the last sample. -/
def showLine (s : State) : State :=
  match s.level with
  | .transaction => s
  | .cycle => { s with ports := { s.ports with owIn := lineLevel s } }

/-- What a sample changes: the BUS agent, the number of free values drawn, the level `ow_in` shows. -/
def setBus (b : BusAgent) (d : Nat) (o : Bool) (s : State) : State :=
  { s with bus := b, draws := d, ports := { s.ports with owIn := o } }

/-- A level that no device model gives: the next scripted one, else a free value (U2). It is what `ow_in` shows. -/
def sampleLevel (s : State) : State × Bool :=
  match s.bus with
  | .script (l :: ls) => (setBus (.script ls) s.draws l s, l)
  | b => (setBus b (s.draws + 1) (Config.freeLevel s.draws) s, Config.freeLevel s.draws)

/-- `Bus.reset()`: the level at the presence sample; every device observes a reset (R89, R106). -/
def busReset (s : State) : State × Bool :=
  match s.bus with
  | .reference ds => (setBus (.reference (ds.map Device.onReset)) s.draws ds.isEmpty s, ds.isEmpty)
  | _ => sampleLevel s

/-- `Bus.slot(m)`: the output bit of the slot. For m = 0 the line is not sampled and the bit is 0; every device
observes the slot (R90, R107, R163, R164). -/
def busSlot (m : Bool) (s : State) : State × Bool :=
  match s.bus with
  | .reference ds =>
    let l := m && devicesOut ds
    (setBus (.reference (ds.map (Device.onSlot l))) s.draws (if m then l else s.ports.owIn) s, l)
  | _ => if m then sampleLevel s else (s, false)

end Sys2Proof.Machine
end

