-- ==== Sys2Proof/Machine/Operands.lean ====
section
/-! DEFINITION. Operand assembly (R132): elements, RomCode bytes, the Scratchpad's fields; and the protocol bytes. -/

namespace Sys2Proof.Machine

/-- `zext_8` of a bit. -/
def zext8 (b : Bool) : Byte := if b then 1#8 else 0#8

/-- The reset element BusController emits (R123). -/
def resetElem : Elem := 0x100#9

/-- `zext_9(v)`: the transfer element of a byte (R132 d). -/
def byteElem (v : Byte) : Elem := v.setWidth 9

/-- `zext_9(b)`: the transfer element of a bit (R132 d). -/
def bitElem (b : Bool) : Elem := if b then 1#9 else 0#9

/-- search-command (R127). -/
def searchByte : Byte := 0xF0#8
/-- address-one (R127). -/
def addressOneByte : Byte := 0x55#8
/-- address-all (R127). -/
def addressAllByte : Byte := 0xCC#8
/-- start-conversion (R127). -/
def startConversionByte : Byte := 0x44#8
/-- read-scratchpad (R127). -/
def readScratchpadByte : Byte := 0xBE#8

/-- Byte j of a RomCode, `ROM[k][8j+7 : 8j]` (R93, R132 c). -/
def romByte (code : RomCode) (j : Nat) : Byte := (code >>> (8 * j)).setWidth 8

/-- `ROM[k]`. The table has entries k < N_MAX only; what another index gives is free (notes/assumptions/10.md). -/
def romEntry (s : State) (k : Nat) : RomCode := s.rom.getD k (Config.freeRomEntry k)

/-- Byte n of a byte list. A Scratchpad has nine (R131) and well-formed operands are Scratchpads, so the default is
never read. -/
def byteAt (sp : List Byte) (n : Nat) : Byte := sp.getD n 0

/-- `raw16 = {sp[1], sp[0]}` (R94, R132 a); TEMP_DECODE stores these 16 bits undivided (R272). -/
def rawTemp (sp : List Byte) : BitVec 16 := byteAt sp 1 ++ byteAt sp 0

/-- `sp[4][6:5]` (R132 b, R273). -/
def resField (sp : List Byte) : BitVec 2 := (byteAt sp 4 >>> 5).setWidth 2

/-- The integer value M of a marker, −1 for none (R129). -/
def markerValue : Marker → Int
  | some idx => idx.toNat
  | none => -1

/-- One step of the CRC (R221). -/
def crcStep (acc : Byte) (b : Bool) : Byte :=
  let t := acc ^^^ zext8 b
  if t.getLsbD 0 then (t >>> 1) ^^^ 0x8C#8 else t >>> 1

/-- The n lowest bits of v that remain from bit k on, bit k first. -/
def crcBits (v : Byte) : Nat → Nat → Byte → Byte
  | 0, _, acc => acc
  | n + 1, k, acc => crcBits v n (k + 1) (crcStep acc (v.getLsbD k))

/-- The eight steps of one byte, bit 0 first (R220). -/
def crcByte (acc : Byte) (v : Byte) : Byte := crcBits v 8 0 acc

/-- `CRC8(s)`, `INIT = 0x00` (R220, R222). -/
def crc8 (s : List Byte) : Byte := s.foldl crcByte 0#8

end Sys2Proof.Machine
end

