-- ==== Sys2Proof/Machine/Flags.lean ====
section
/-! DEFINITION. The STATUS word and the fault flags (R54, R320 to R326). -/

namespace Sys2Proof.Machine

/-- The five faults of the taxonomy and TableFull (R322 to R326). -/
inductive FaultFlag where
  | busFault
  | searchFault
  | crcMismatch
  | pollTimeout
  | tableFull
deriving DecidableEq, Repr

/-- Setting one flag; the others keep their value (R321 a, b). -/
def Flags.set (f : Flags) : FaultFlag → Flags
  | .busFault => { f with busFault := true }
  | .searchFault => { f with searchFault := true }
  | .crcMismatch => { f with crcMismatch := true }
  | .pollTimeout => { f with pollTimeout := true }
  | .tableFull => { f with tableFull := true }

/-- Reading one flag. -/
def Flags.get (f : Flags) : FaultFlag → Bool
  | .busFault => f.busFault
  | .searchFault => f.searchFault
  | .crcMismatch => f.crcMismatch
  | .pollTimeout => f.pollTimeout
  | .tableFull => f.tableFull

/-- `raise F`: "set the STATUS bit of F and continue"; nothing is saved and no control is transferred (R320, R330). It
is the whole of taking a fault, and there is nothing to return from (R331). -/
def raiseFault (f : FaultFlag) (s : State) : State := { s with flags := s.flags.set f }

/-- `raise F` under a condition; otherwise nothing. -/
def raiseIf (c : Bool) (f : FaultFlag) (s : State) : State := { s with flags := if c then s.flags.set f else s.flags }

/-- `BUSY = (CTL.seq ≠ HOST_IDLE)` (R54). -/
def busy (s : State) : Bool := s.seq != .hostIdle

/-- One bit at its place in a 32-bit word. -/
def bitAt (b : Bool) (i : Nat) : HWord := if b then 1#32 <<< i else 0#32

/-- The STATUS word (R54). -/
def statusWord (s : State) : HWord :=
  bitAt (busy s) 0 ||| bitAt s.presence 1 ||| bitAt s.flags.busFault 4 ||| bitAt s.flags.searchFault 5 |||
    bitAt s.flags.crcMismatch 6 ||| bitAt s.flags.pollTimeout 7 ||| bitAt s.flags.tableFull 8

/-- `KIND` as two bits (R51). -/
def kindBits : Kind → BitVec 2
  | .empty => 0
  | .temp => 1
  | .crcFail => 2

/-- The word of a Reading: KIND 31:30, RESF 17:16, T16 15:0 (R51). -/
def readingWord (r : Reading) : HWord := kindBits r.kind ++ (0#12 ++ (r.resf ++ r.t16))

end Sys2Proof.Machine
end

