-- ==== Sys2Proof/Machine/Ops.lean ====
section
/-! DEFINITION. The shared operations: the channels (R83 to R88), ENGINE's Level T step (R160 to R164), the
push-then-pop of BusController (R206), E.REINIT (R176), reset (R60), and the tables. -/

namespace Sys2Proof.Machine

/-! ### Channels -/

/-- `full(CMD)` (R19). -/
def cmdFull (s : State) : Bool := !(s.cmd.length < s.par.fifoDepth)

/-- `full(RES)` (R19). -/
def resFull (s : State) : Bool := !(s.res.length < s.par.fifoDepth)

/-- Appending an element at the tail of CMD; whether there is room is the caller's test (R83). -/
def pushCmd (e : Elem) (s : State) : State := { s with cmd := s.cmd ++ [e] }

/-- Appending an element at the tail of RES; whether there is room is the caller's test (R84). -/
def pushRes (r : Byte) (s : State) : State := { s with res := s.res ++ [r] }

/-- Quiescent: ENGINE in IDLE, CMD and RES empty (R372). -/
def quiescent (s : State) : Bool := s.eng.phase == .idle && s.cmd.isEmpty && s.res.isEmpty

/-! ### ENGINE, one element as a whole -/

/-- A change of the ENGINE registers. -/
def setEngine (e : Engine) (s : State) : State := { s with eng := e }

/-- An element performed in one step at Level C (a word of the test harness, notes/assumptions/4.md) leaves the ENGINE
registers g, those its own ticks leave at the push of its result. At Level T ENGINE has no registers (R30). -/
def leaveEngine (g : Engine) (s : State) : State :=
  match s.level with
  | .transaction => s
  | .cycle => setEngine g s

/-- After a reset sequence with the level x.2 at its sample: the recovery begins (R168 to R170, R200). -/
def afterReset (x : State × Bool) : State :=
  leaveEngine { x.1.eng with
    phase := .rstRec, cnt := x.1.par.tRstrec, isr := zext8 x.2, drive := false } x.1

/-- After the W slots of a transfer of `data` with the result x.2: ENGINE is in IDLE (R171 to R177). -/
def afterXfer (data : Byte) (x : State × Byte) : State :=
  let w := x.1.framing.width
  leaveEngine
    { phase := .idle, cnt := 1, osr := data >>> w, isr := x.2, nbit := BitVec.ofNat 4 w, cur := data.getLsbD (w - 1),
      drive := false } x.1

/-- E.RESET: one reset sequence, one result element with the raw level (R161). -/
def performReset (s : State) : State :=
  let x := busReset s
  pushRes (zext8 x.2) (afterReset x)

/-- The slots k, k+1, … of a transfer, n of them, into the result r (R162 to R164). -/
def slots (data : Byte) : Nat → Nat → Byte → State → State × Byte
  | 0, _, r, s => (s, r)
  | n + 1, k, r, s =>
    let x := busSlot (data.getLsbD k) s
    slots data n (k + 1) (setBit r k x.2) x.1

/-- E.XFER8 or E.XFER1: W slots with W read from FRAMING, one result element (R162). -/
def performXfer (data : Byte) (s : State) : State :=
  let x := slots data s.framing.width 0 0#8 s
  pushRes x.2 (afterXfer data x)

/-- What ENGINE does with a popped element (R160). -/
def performElem (e : Elem) (s : State) : State :=
  if elemRst e then performReset s else performXfer (elemData e) s

/-- ENGINE can take an element and deliver its result: it is in IDLE and RES has room (R85, R160). -/
def engineFree (s : State) : Bool := s.eng.phase == .idle && !resFull s

/-- One ENGINE step on a whole element: pop, bus activity and push; `none` while it waits (R160). -/
def engineStep (s : State) : Option State :=
  match s.cmd with
  | [] => none
  | e :: rest => if engineFree s then some (performElem e { s with cmd := rest }) else none

/-! ### BusController's push and pop, run to completion -/

/-- CONTROLLER's `push(CMD, e)`; while CMD is full ENGINE moves (R85). -/
def pushBlocking (e : Elem) (s : State) : Option State :=
  if cmdFull s then (engineStep s).map (pushCmd e) else some (pushCmd e s)

/-- The head of RES, if there is one (R84). -/
def popRes (s : State) : Option (State × Byte) :=
  match s.res with
  | [] => none
  | r :: rest => some ({ s with res := rest }, r)

/-- CONTROLLER's `pop(RES)`; while RES is empty ENGINE moves (R85). -/
def popBlocking (s : State) : Option (State × Byte) :=
  if s.res.isEmpty then (engineStep s).bind popRes else popRes s

/-- One BusController operation as a whole: one push, then one pop, ENGINE moving whenever CONTROLLER waits (R206).
`none` when neither can move: the wait does not end by ENGINE alone (R336; notes/assumptions/4.md). -/
def transact (e : Elem) (s : State) : Option (State × Byte) := (pushBlocking e s).bind popBlocking

/-- A BusController operation can be carried through now: there is room for its element, or ENGINE makes some, and there
is a result, or ENGINE makes one (R85, R206). -/
def bcReady (s : State) : Bool :=
  if cmdFull s then engineFree s && !s.cmd.isEmpty else !s.res.isEmpty || engineFree s

/-- Several operations in order, their results dropped; `DM.j` counts them (R267). -/
def sendBytes : List Byte → State → Option State
  | [], s => some s
  | b :: bs, s =>
    match transact (byteElem b) s with
    | none => none
    | some (s', _) => sendBytes bs { s' with dm := { s'.dm with j := s'.dm.j + 1 } }

/-! ### E.REINIT and reset -/

/-- E.REINIT: FRAMING takes the width, ENGINE goes to IDLE with the line released, both channels are emptied (R176). -/
def engineReinit (w : Framing) (s : State) : State :=
  { s with framing := w, eng := .reset, cmd := [], res := [] }

/-- Every register of the core at its reset value (R60 to R64); the ports, the agents around the core, the parameters
and the model's own record of draws and returned values stay. -/
def coreReset (s : State) : State :=
  { State.resetWith s.par s.level s.bus with
    ports := s.ports, inbox := s.inbox, issue := s.issue, ret := s.ret, draws := s.draws }

/-! ### The search (43_rom_search.md) -/

/-- The direction at a collision (R237). -/
def collisionDir (rs : Search) : Bool :=
  if (rs.i.toNat : Int) = markerValue rs.last then true
  else if markerValue rs.last < (rs.i.toNat : Int) then false
  else rs.rom.getLsbD rs.i.toNat

/-- The direction and the marker after a read pair other than (1,1) (R236 to R238). -/
def chooseDir (rs : Search) : Search :=
  if rs.b1 ≠ rs.b2 then { rs with dir := rs.b1 }
  else if collisionDir rs then { rs with dir := true }
  else { rs with dir := false, new := some (rs.i.setWidth 6) }

/-- `RS.rom[RS.i] <- RS.dir ; RS.i <- RS.i + 1` (R240). -/
def takeDir (rs : Search) : Search :=
  { rs with rom := setBit rs.rom rs.i.toNat rs.dir, i := rs.i + 1 }

/-- The search ends here because the table is full: a branch remains and this code is the N_MAX-th (R244). -/
def tableFull (s : State) : Bool := s.rs.new.isSome && (s.romCount + 1).toNat == s.par.nMax

/-- SEARCH_START: per-invocation initialisation, then PASS (R230, R247). -/
def atSearchStart (s : State) : State :=
  { s with romCount := 0, rs := { s.rs with rom := 0, last := none, new := none }, seq := .push .passReset }

/-- The end of a pass: record the code, then go on from the new marker, or leave through SEARCH_EXIT and `return`
(R230, R241, R242, R244, R260). -/
def recordPass (s : State) : State :=
  raiseIf (tableFull s) .tableFull
    { s with
      rom := s.rom.set s.romCount.toNat s.rs.rom
      romCount := s.romCount + 1
      rs := { s.rs with last := if s.rs.new.isSome && !tableFull s then s.rs.new else s.rs.last }
      seq := if s.rs.new.isSome && !tableFull s then .push .passReset else .hostIdle }

/-! ### Readings (44_device_manager.md) -/

/-- The Reading of a Scratchpad: the CRC is the sole gate (R270, R271, R274). -/
def readingOf (sp : List Byte) : Reading :=
  if crc8 sp = 0#8 then { kind := .temp, resf := resField sp, t16 := rawTemp sp }
  else { kind := .crcFail, resf := 0, t16 := 0 }

/-- DEV: the RESET of the next device, or SAMPLE_DONE and `return` once `DM.k = ROM_COUNT` (R261, R266, R275). -/
def atDev (s : State) : State :=
  { s with
    rdgCount := if s.dm.k = s.romCount then s.romCount else s.rdgCount
    seq := if s.dm.k = s.romCount then .hostIdle else .push .devReset }

/-- READ_ALL (R261, R266). -/
def atReadAll (s : State) : State := atDev { s with dm := { s.dm with k := 0 } }

/-- CRC check of the Scratchpad just read and the Reading of device `DM.k`; on to the next device (R270 to R274). -/
def recordReading (s : State) : State :=
  raiseIf (crc8 s.dm.sp != 0#8) .crcMismatch (atDev
    { s with
      rdg := s.rdg.set s.dm.k.toNat (readingOf s.dm.sp)
      dm := { s.dm with crc := crc8 s.dm.sp, k := s.dm.k + 1 } })

end Sys2Proof.Machine
end

