-- ==== Sys2Proof/Machine/Controller.lean ====
section
/-! DEFINITION. CONTROLLER's fixed sequences (R230, R260, R261), one step per place of `CTL.seq` (R20, R47). -/

namespace Sys2Proof.Machine

/-- The element the operation at a place pushes (R123 to R128, R200 to R204). -/
def placeElem (p : Place) (s : State) : Elem :=
  match p with
  | .passReset | .sampleReset | .devReset => resetElem
  | .searchCmd => byteElem searchByte
  | .readB1 | .readB2 => bitElem true
  | .writeDir => bitElem s.rs.dir
  | .addrAll => byteElem addressAllByte
  | .startConv => byteElem startConversionByte
  | .pollRead | .spByte => byteElem 0xFF#8
  | .addrOne => byteElem addressOneByte
  | .addrByte => byteElem (romByte (romEntry s s.dm.k.toNat) s.dm.j.toNat)
  | .readCmd => byteElem readScratchpadByte

/-- `BC.presence <- ~r[0]` (R200). -/
def setPresence (r : Byte) (s : State) : State := { s with presence := !r.getLsbD 0 }

/-- `DM.sp[DM.j] <- r`, and `DM.j` moves on (R269). -/
def takeSpByte (r : Byte) (s : State) : State :=
  { s with dm := { s.dm with sp := s.dm.sp.set s.dm.j.toNat r, j := s.dm.j + 1 } }

/-- The SET_FRAMING between the pop of the result r of the operation at p and the next push: after the search command,
at the pair (1,1), and after position 63 (R233, R235, R243). -/
def popFraming (p : Place) (r : Byte) (s : State) : Option Framing :=
  match p with
  | .searchCmd => some .w1
  | .readB2 => if s.rs.b1 && r.getLsbD 0 then some .w8 else none
  | .writeDir => if (s.rs.i + 1).toNat < 64 then none else some .w8
  | .passReset | .readB1 | .sampleReset | .addrAll | .startConv | .pollRead | .devReset | .addrOne | .addrByte
  | .readCmd | .spByte => none

/-- What CONTROLLER does, in the step that pops result r of the operation at p, up to its next push or wait: one atomic
step (R20), in which the SET_FRAMING of `popFraming` takes place as well. `expired` says that the poll has no budget left
(R264, R265). -/
def afterPop (expired : Bool) (p : Place) (r : Byte) (s : State) : State :=
  match p with
  | .passReset =>                                            -- R231: no presence is a BusFault and ends the search
    raiseIf (r.getLsbD 0) .busFault
      { setPresence r s with seq := if r.getLsbD 0 then .hostIdle else .push .searchCmd }
  | .searchCmd => { s with rs := { s.rs with new := none, i := 0 }, seq := .push .readB1 }   -- R232, R233
  | .readB1 => { s with rs := { s.rs with b1 := r.getLsbD 0 }, seq := .push .readB2 }   -- R234
  | .readB2 =>                                               -- R234 to R238
    if s.rs.b1 && r.getLsbD 0 then
      raiseFault .searchFault { s with rs := { s.rs with b2 := r.getLsbD 0 }, seq := .hostIdle }
    else { s with rs := chooseDir { s.rs with b2 := r.getLsbD 0 }, seq := .push .writeDir }
  | .writeDir =>                                             -- R239 to R244
    if (s.rs.i + 1).toNat < 64 then { s with rs := takeDir s.rs, seq := .push .readB1 }
    else recordPass { s with rs := takeDir s.rs }
  | .sampleReset =>                                          -- R261 step 1: no presence is a BusFault and a return
    raiseIf (r.getLsbD 0) .busFault
      { setPresence r s with seq := if r.getLsbD 0 then .hostIdle else .push .addrAll }
  | .addrAll => { s with seq := .push .startConv }           -- R262
  | .startConv =>                                            -- R263, R264
    { s with
      dm := { s.dm with pollT := BitVec.ofNat 20 s.par.tPollBudget }, pollReads := 0, seq := .push .pollRead }
  | .pollRead =>                                             -- R264, R265
    if r = 0xFF#8 then atReadAll s
    else if expired then raiseFault .pollTimeout (atReadAll s)
    else
      { s with
        dm := { s.dm with gapT := BitVec.ofNat 14 s.par.tPollGap }, pollReads := s.pollReads + 1, seq := .pollGap }
  | .devReset => { setPresence r s with seq := .push .addrOne }   -- R266: the result is not examined
  | .addrOne => { s with dm := { s.dm with j := 0 }, seq := .push .addrByte }   -- R267
  | .addrByte =>                                             -- R267
    { s with
      dm := { s.dm with j := s.dm.j + 1 }, seq := if (s.dm.j + 1).toNat < 8 then .push .addrByte else .push .readCmd }
  | .readCmd => { s with dm := { s.dm with j := 0 }, seq := .push .spByte }   -- R268
  | .spByte =>                                               -- R269 to R274
    if (s.dm.j + 1).toNat < 9 then { takeSpByte r s with seq := .push .spByte } else recordReading (takeSpByte r s)

/-- One step of CONTROLLER: `none` while it waits or no sequence runs, else the state after it and, for SET_FRAMING, the
width it presents to ENGINE. `gapDone` says that the poll gap is over (R264). -/
def ctlStep (expired gapDone : Bool) (s : State) : Option (Option Framing × State) :=
  match s.seq with
  | .hostIdle => none
  | .discoverStart => some (none, atSearchStart { s with rdgCount := 0 })                    -- R260
  | .searchStart => some (none, atSearchStart s)                                             -- R230
  | .searchExit => some (none, { s with seq := .hostIdle })                                  -- R230, R260
  | .sampleStart => some (none, { s with rdgCount := 0, seq := .push .sampleReset })         -- R261
  | .readAll => some (none, atReadAll s)                                                     -- R266
  | .dev => some (none, atDev s)                                                             -- R266
  | .sampleDone => some (none, { s with rdgCount := s.romCount, seq := .hostIdle })          -- R275
  | .push p => if cmdFull s then none else some (none, { pushCmd (placeElem p s) s with seq := .pop p })  -- R206
  | .pop p => (popRes s).map fun x => (popFraming p x.2 x.1, afterPop expired p x.2 x.1)                     -- R206
  | .pollGap =>                                                                              -- R264
    if gapDone then some (none, { s with dm := { s.dm with gapT := 0 }, seq := .push .pollRead }) else none

end Sys2Proof.Machine
end

