-- ==== Sys2Proof/Machine/Cycle.lean ====
section
/-! DEFINITION. ENGINE at Level C: one step per tick, eleven phases (R165 to R177). -/

namespace Sys2Proof.Machine

/-- `BusState` as the function of `ENG.phase` (R58). -/
def busState (p : Phase) : BusState :=
  match p with
  | .idle => .idle
  | .rstLow | .rstWait | .rstPush | .rstRec => .resetting
  | .slLow | .slWait1 | .slPad1 | .slHold0 | .slRec | .elPush => .transferring

/-- A timed phase: count down, or the exit action when the count is 1 (R165). -/
def timed (exit : State → State) (s : State) : State :=
  if 1 < s.eng.cnt then setEngine { s.eng with cnt := s.eng.cnt - 1 } s else exit s

/-- `start_slot` (R171). -/
def startSlot (s : State) : State :=
  setEngine { s.eng with
    cur := s.eng.osr.getLsbD 0, osr := s.eng.osr >>> 1, drive := true, cnt := s.par.tLow, phase := .slLow } s

/-- IDLE with an element: start the reset sequence, or load the data and start slot 0 in the same tick (R166). `ENG.isr` is
cleared at the start of either (R36); `ENG.nbit` is written for a transfer alone, as R166 lists it (DEDUCED,
notes/assumptions/30.md). -/
def startElem (e : Elem) (s : State) : State :=
  if elemRst e then setEngine { s.eng with isr := 0, drive := true, cnt := s.par.tRstl, phase := .rstLow } s
  else startSlot (setEngine { s.eng with isr := 0, nbit := 0, osr := elemData e } s)

/-- Exit of RST_LOW (R167). -/
def exitRstLow (s : State) : State := setEngine { s.eng with drive := false, cnt := s.par.tPds, phase := .rstWait } s

/-- Exit of RST_WAIT: the presence sample (R168). -/
def exitRstWait (s : State) : State :=
  let x := busReset s
  setEngine { s.eng with isr := zext8 x.2, phase := .rstPush } x.1

/-- Exit of RST_REC (R170). -/
def exitRstRec (s : State) : State := setEngine { s.eng with phase := .idle } s

/-- Exit of SL_LOW: release for an input bit 1, hold for 0 (R171). -/
def exitSlLow (s : State) : State :=
  if s.eng.cur then setEngine { s.eng with drive := false, cnt := s.par.tSmp, phase := .slWait1 } s
  else setEngine { s.eng with cnt := s.par.tSlot - s.par.tLow, phase := .slHold0 } s

/-- Exit of SL_WAIT1: the sample (R172). -/
def exitSlWait1 (s : State) : State :=
  let x := busSlot true s
  setEngine { s.eng with
    isr := setBit s.eng.isr s.eng.nbit.toNat x.2, cnt := s.par.tSlot - s.par.tLow - s.par.tSmp, phase := .slPad1 } x.1

/-- Exit of SL_PAD1 (R173). -/
def exitSlPad1 (s : State) : State := setEngine { s.eng with cnt := s.par.tRec, phase := .slRec } s

/-- Exit of SL_HOLD0: release, output bit 0; the devices have seen a slot with input bit 0 (R174). -/
def exitSlHold0 (s : State) : State :=
  let x := busSlot false s
  setEngine { s.eng with
    drive := false, isr := setBit s.eng.isr s.eng.nbit.toNat x.2, cnt := s.par.tRec, phase := .slRec } x.1

/-- Exit of SL_REC: the next slot in the same tick, or EL_PUSH after the last one (R175). -/
def exitSlRec (s : State) : State :=
  let n := s.eng.nbit + 1
  if n.toNat = s.framing.width then setEngine { s.eng with nbit := n, phase := .elPush } s
  else startSlot (setEngine { s.eng with nbit := n } s)

/-- One tick of ENGINE. `canPop` and `canPush` are the channels' states before the tick: CMD not empty, RES not full
(R165, R329). -/
def engineTick (canPop canPush : Bool) (s : State) : State :=
  match s.eng.phase with
  | .idle =>                                                  -- R166
    if canPop then
      match s.cmd with
      | [] => s
      | e :: rest => startElem e { s with cmd := rest }
    else s
  | .rstLow => timed exitRstLow s                             -- R167
  | .rstWait => timed exitRstWait s                           -- R168
  | .rstPush =>                                               -- R169
    if canPush then
      setEngine { s.eng with cnt := s.par.tRstrec, phase := .rstRec } (pushRes s.eng.isr s)
    else s
  | .rstRec => timed exitRstRec s                             -- R170
  | .slLow => timed exitSlLow s                               -- R171
  | .slWait1 => timed exitSlWait1 s                           -- R172
  | .slPad1 => timed exitSlPad1 s                             -- R173
  | .slHold0 => timed exitSlHold0 s                           -- R174
  | .slRec => timed exitSlRec s                               -- R175
  | .elPush =>                                                -- R177
    if canPush then setEngine { s.eng with phase := .idle } (pushRes s.eng.isr s) else s

/-- ENGINE alone for one tick, with the channels' states as they are before it. -/
def engineAlone (s : State) : State := engineTick (!s.cmd.isEmpty) (!resFull s) s

/-- ENGINE alone for n ticks. -/
def engineTicks : Nat → State → State
  | 0, s => s
  | n + 1, s => engineTicks n (engineAlone s)

end Sys2Proof.Machine
end

