-- ==== Sys2Proof/Machine/BusController.lean ====
section
/-! DEFINITION. The BusController operations, each one push and one pop (R200 to R207). An operation that waits for
ever keeps all state (R85, R206): its next state is the state itself. -/

namespace Sys2Proof.Machine

/-- An operation whose popped result is used by `k`; waiting leaves the state as it is (R206). -/
def bcOp (e : Elem) (k : Byte → State → State) (s : State) : Host.Outcome State Fault Refusal :=
  match transact e s with
  | some (s', r) => .next (k r s')
  | none => .next s

/-- The value an operation returns to its caller, in the model's own register. -/
def setRet (v : BitVec 16) (s : State) : State := { s with ret := v }

/-- `RESET`: presence is the complement of the raw level (R200). -/
def execReset (s : State) : Host.Outcome State Fault Refusal :=
  bcOp resetElem (fun r s' => setRet ((zext8 (!r.getLsbD 0)).setWidth 16) { s' with presence := !r.getLsbD 0 }) s

/-- `WRITE_BYTE v`: the result is popped and dropped (R201). -/
def execWriteByte (v : Byte) (s : State) : Host.Outcome State Fault Refusal := bcOp (byteElem v) (fun _ s' => s') s

/-- `READ_BYTE`: `WRITE_BYTE 0xFF` with the result kept (R202, R136). -/
def execReadByte (s : State) : Host.Outcome State Fault Refusal :=
  bcOp (byteElem 0xFF#8) (fun r s' => setRet (r.setWidth 16) s') s

/-- `WRITE_BIT b` (R203). -/
def execWriteBit (b : Bool) (s : State) : Host.Outcome State Fault Refusal := bcOp (bitElem b) (fun _ s' => s') s

/-- `READ_BIT`: `WRITE_BIT 1` with bit 0 of the result kept (R204, R136). -/
def execReadBit (s : State) : Host.Outcome State Fault Refusal :=
  bcOp (bitElem true) (fun r s' => setRet ((zext8 (r.getLsbD 0)).setWidth 16) s') s

/-- `SET_FRAMING w`: performs E.REINIT; legal only while ENGINE is quiescent, else the run is refused (R205, R373, U3). -/
def execSetFraming (w : Framing) (s : State) : Host.Outcome State Fault Refusal :=
  if quiescent s then .next (engineReinit w s) else .refused .framingNotQuiescent

end Sys2Proof.Machine
end

