-- ==== Sys2Proof/Machine/Functions.lean ====
section
/-! DEFINITION. The pure functions (R220, R272, R273). They read their argument only; the result goes to the model's
register `ret`, and CRC8's accumulator is `DM.crc` (R220; notes/assumptions/5.md). -/

namespace Sys2Proof.Machine

/-- `CRC8(s)` (R220). -/
def execCrc8 (bs : List Byte) (s : State) : Host.Outcome State Fault Refusal :=
  .next (setRet ((crc8 bs).setWidth 16) { s with dm := { s.dm with crc := crc8 bs } })

/-- `TEMP_DECODE(sp)` (R272). -/
def execTempDecode (sp : List Byte) (s : State) : Host.Outcome State Fault Refusal := .next (setRet (rawTemp sp) s)

/-- `RES_DECODE(sp)` (R273). -/
def execResDecode (sp : List Byte) (s : State) : Host.Outcome State Fault Refusal :=
  .next (setRet ((resField sp).setWidth 16) s)

end Sys2Proof.Machine
end

