-- ==== Sys2Proof/Machine/HostCommands.lean ====
section
/-! DEFINITION. The host commands: the effect of the `CTRL` write (R300 to R305). -/

namespace Sys2Proof.Machine

/-- A top-level operation is accepted in HOST_IDLE: the five flags are cleared and the sequence starts; otherwise the
write is ignored entirely (R300, R302, R303, R305). -/
def acceptCommand (start : Seq) (s : State) : State :=
  if s.seq = .hostIdle then { s with flags := .clear, seq := start } else s

/-- `NOP`: no state changes (R301). -/
def execNop (s : State) : Host.Outcome State Fault Refusal := .next s

/-- `DISCOVER` (R302). -/
def execDiscover (s : State) : Host.Outcome State Fault Refusal := .next (acceptCommand .discoverStart s)

/-- `SAMPLE_ALL` (R303). -/
def execSampleAll (s : State) : Host.Outcome State Fault Refusal := .next (acceptCommand .sampleStart s)

/-- `REINIT`: accepted in every state, every register takes its reset value (R304, R362). -/
def execReinit (s : State) : Host.Outcome State Fault Refusal := .next (coreReset s)

end Sys2Proof.Machine
end

