-- ==== Sys2Proof/Machine/TimingEngine.lean ====
section
/-! DEFINITION. The ENGINE operations at Level T (R160 to R164, R176). The element has been taken; while RES is full
ENGINE waits and nothing changes (R85). -/

namespace Sys2Proof.Machine

/-- `E.RESET` (R161). -/
def execEReset (s : State) : Host.Outcome State Fault Refusal :=
  if engineFree s then .next (performReset s) else .next s

/-- `E.XFER8 d`: W slots of the element `zext_9(d)`, W read from FRAMING (R162); FRAMING = 0 selects this row (R124). -/
def execEXfer8 (d : Byte) (s : State) : Host.Outcome State Fault Refusal :=
  if engineFree s then .next (performXfer d s) else .next s

/-- `E.XFER1 b`: W slots of the element `zext_9(b)`, W read from FRAMING (R162); FRAMING = 1 selects this row (R124). -/
def execEXfer1 (b : Bool) (s : State) : Host.Outcome State Fault Refusal :=
  if engineFree s then .next (performXfer (zext8 b) s) else .next s

/-- `E.REINIT w`: acts whatever ENGINE is doing (R176). -/
def execEReinit (w : Framing) (s : State) : Host.Outcome State Fault Refusal := .next (engineReinit w s)

end Sys2Proof.Machine
end

