-- ==== Sys2Proof/Machine/Wire.lean ====
section
/-! DEFINITION. The protocol bytes: each is sent as the data of WRITE_BYTE (R127, R232, R262, R263, R267, R268). -/

namespace Sys2Proof.Machine

/-- `SEARCH_CMD` (R232). -/
def execSearchCmd (s : State) : Host.Outcome State Fault Refusal := bcOp (byteElem searchByte) (fun _ s' => s') s

/-- The eight bytes of a RomCode, least significant first (R93). -/
def romBytes (code : RomCode) : List Byte :=
  [romByte code 0, romByte code 1, romByte code 2, romByte code 3, romByte code 4, romByte code 5, romByte code 6,
    romByte code 7]

/-- The nine bytes of ADDRESS_ONE: the command byte, then the eight bytes of `ROM[DM.k]`, `DM.j` counting from 0 (R267).
`none` if one of the nine operations cannot be carried through by ENGINE alone (notes/assumptions/4.md). -/
def addressOneSend (s : State) : Option State :=
  match transact (byteElem addressOneByte) s with
  | none => none
  | some (s', _) => sendBytes (romBytes (romEntry s s.dm.k.toNat)) { s' with dm := { s'.dm with j := 0 } }

/-- `ADDRESS_ONE` (R267). While not all nine bytes can go through, none is sent and the state stays as it is: a DESIGN
CHOICE (notes/assumptions/4.md); the issue port then keeps the word until they can (`issueReady`). -/
def execAddressOne (s : State) : Host.Outcome State Fault Refusal :=
  match addressOneSend s with
  | some t => .next t
  | none => .next s

/-- `ADDRESS_ALL` (R262). -/
def execAddressAll (s : State) : Host.Outcome State Fault Refusal := bcOp (byteElem addressAllByte) (fun _ s' => s') s

/-- `START_CONVERSION` (R263). -/
def execStartConversion (s : State) : Host.Outcome State Fault Refusal :=
  bcOp (byteElem startConversionByte) (fun _ s' => s') s

/-- `READ_SCRATCHPAD` (R268). -/
def execReadScratchpad (s : State) : Host.Outcome State Fault Refusal :=
  bcOp (byteElem readScratchpadByte) (fun _ s' => s') s

end Sys2Proof.Machine
end

