-- ==== Sys2Proof/Machine/Dispatch.lean ====
section
/-! DEFINITION. The meaning of each operation: one arm, one definition. -/

namespace Sys2Proof.Machine

def exec (i : Instr) (s : State) : Host.Outcome State Fault Refusal :=
  match i with
  | .nop => Sys2Proof.Machine.execNop s
  | .discover => Sys2Proof.Machine.execDiscover s
  | .sampleAll => Sys2Proof.Machine.execSampleAll s
  | .reinit => Sys2Proof.Machine.execReinit s
  | .reset => Sys2Proof.Machine.execReset s
  | .writeByte v => Sys2Proof.Machine.execWriteByte v s
  | .readByte => Sys2Proof.Machine.execReadByte s
  | .writeBit b => Sys2Proof.Machine.execWriteBit b s
  | .readBit => Sys2Proof.Machine.execReadBit s
  | .setFraming w => Sys2Proof.Machine.execSetFraming w s
  | .eReset => Sys2Proof.Machine.execEReset s
  | .eXfer8 d => Sys2Proof.Machine.execEXfer8 d s
  | .eXfer1 b => Sys2Proof.Machine.execEXfer1 b s
  | .eReinit w => Sys2Proof.Machine.execEReinit w s
  | .searchCmd => Sys2Proof.Machine.execSearchCmd s
  | .addressOne => Sys2Proof.Machine.execAddressOne s
  | .addressAll => Sys2Proof.Machine.execAddressAll s
  | .startConversion => Sys2Proof.Machine.execStartConversion s
  | .readScratchpad => Sys2Proof.Machine.execReadScratchpad s
  | .crc8 bs => Sys2Proof.Machine.execCrc8 bs s
  | .tempDecode sp => Sys2Proof.Machine.execTempDecode sp s
  | .resDecode sp => Sys2Proof.Machine.execResDecode sp s

end Sys2Proof.Machine
end

