-- ==== Sys2Proof/Machine/HostPort.lean ====
section
/-! DEFINITION. The HOST space: reads of the register map (R53 to R55, R81, R82, R101). -/

namespace Sys2Proof.Machine

/-- A count as a host word: bits 6:0, the rest 0 (R55). -/
def countWord (n : BitVec 7) : HWord := n.setWidth 32

/-- `ROM_LO[k]` and `ROM_HI[k]` (R55, R95). -/
def romLoWord (s : State) (k : Nat) : HWord :=
  if k < s.romCount.toNat then (romEntry s k).setWidth 32 else 0

def romHiWord (s : State) (k : Nat) : HWord :=
  if k < s.romCount.toNat then ((romEntry s k) >>> 32).setWidth 32 else 0

/-- `RDG[k]` (R55). -/
def rdgWord (s : State) (k : Nat) : HWord :=
  if k < s.rdgCount.toNat then readingWord (s.rdg.getD k .empty) else 0

/-- The word of R55 at a word index, from the registers alone. -/
def mapWord (s : State) (a : Nat) : HWord :=
  if a = 0x000 then 0
  else if a = 0x001 then statusWord s
  else if a = 0x002 then countWord s.romCount
  else if a = 0x003 then countWord s.rdgCount
  else if 0x100 ≤ a ∧ a < 0x100 + 2 * s.par.nMax then
    (if a % 2 = 0 then romLoWord s ((a - 0x100) / 2) else romHiWord s ((a - 0x100) / 2))
  else if 0x200 ≤ a ∧ a < 0x200 + s.par.nMax then rdgWord s (a - 0x200)
  else 0

/-- The indices whose word is unspecified while BUSY = 1: the counts, the ROM window and the RDG window; of STATUS,
bits 8:1 (R101, U1). -/
def isResultIndex (s : State) (a : Nat) : Bool :=
  (a == 0x002) || (a == 0x003) || (decide (0x100 ≤ a) && decide (a < 0x100 + 2 * s.par.nMax)) ||
    (decide (0x200 ≤ a) && decide (a < 0x200 + s.par.nMax))

/-- `MemRead(a, 1)`: the word of the map; while BUSY = 1 the result words are a free value and BUSY is exact (R81,
R101). `d` names the draw. -/
def hostWord (s : State) (a : Nat) (d : Nat) : HWord :=
  if busy s then
    (if a = 0x001 then 1#32 ||| (Config.freeWord d &&& 0x1FE#32)
     else if isResultIndex s a then Config.freeWord d
     else mapWord s a)
  else mapWord s a

/-- A host read: `h_rdata` shows the word, from the state `before`; no register of the core changes (R81, R98). A read
while BUSY = 1 uses up one free value. -/
def hostRead (before : State) (a : BitVec 10) (s : State) : State :=
  { s with
    ports := { s.ports with hRdata := hostWord before a.toNat s.draws }
    draws := if busy before then s.draws + 1 else s.draws }

end Sys2Proof.Machine
end

