-- ==== Sys2Proof/Machine/Tick.lean ====
section
/-! DEFINITION. One step of the whole machine at either level (R11, R329, R335, R360), and the fetch of a word that the
test harness issues. -/

namespace Sys2Proof.Machine

/-- The machine goes on from a next state; a fault or a refusal stays. -/
def onNext (o : Host.Outcome State Fault Refusal) (f : State → Host.Outcome State Fault Refusal) :
    Host.Outcome State Fault Refusal :=
  match o with
  | .next s => f s
  | .fault x => .fault x
  | .refused x => .refused x

/-- The inputs of the next tick take the place of this tick's. -/
def nextCycle (s : State) : State :=
  match s.inbox with
  | [] => { s with ports := { s.ports with host := .idle } }
  | c :: rest => { s with ports := { s.ports with host := c }, inbox := rest }

/-- A tick with `rst = 1`: the reset state, and a read returns its word (R360). -/
def resetTick (s : State) : State :=
  let r := coreReset s
  if s.ports.host.hSel && !s.ports.host.hWe then hostRead r s.ports.host.hAddr r else r

/-- A host access this tick, decided on the state `before` the tick and performed on s (R81, R300, R329): a write of
`CTRL` is decoded and executed, DISCOVER and SAMPLE_ALL only if no sequence ran before the tick. -/
def hostAccess (before s : State) : Host.Outcome State Fault Refusal :=
  let h := before.ports.host
  if h.hSel then
    if h.hWe then
      if h.hAddr = 0 then
        if before.seq = .hostIdle then exec (decodeHost h.hWdata) s
        else if decodeHost h.hWdata = .reinit then exec .reinit s
        else .next s
      else .next s
    else .next (hostRead before h.hAddr s)
  else .next s

/-! ### Level T -/

/-- U5 at Level T: this read is the last one the bound allows. -/
def pollExhausted (s : State) : Bool := decide (s.par.pollMaxReads ≤ s.pollReads + 1)

/-- CONTROLLER's step at Level T; a SET_FRAMING in it comes after the pop, when RES is empty again. A poll gap is over at
once: time is not modelled (R264, R381). -/
def controllerT (s : State) : Host.Outcome State Fault Refusal :=
  match ctlStep (pollExhausted s) true s with
  | none => .next s
  | some (none, s') => .next s'
  | some (some w, s') => exec (.setFraming w) s'

/-- One step at Level T: one agent moves, HOST first, then ENGINE, then CONTROLLER (R11, R160, R329; the order is
notes/assumptions/3.md). -/
def stepT (s : State) : Host.Outcome State Fault Refusal :=
  if s.ports.host.hSel then hostAccess s s
  else if engineFree s then
    match s.cmd with
    | e :: rest => exec (decodeElem s.framing e) { s with cmd := rest }
    | [] => controllerT s
  else controllerT s

/-! ### Level C -/

/-- The timers of R48 count one tick down and stop at 0. They do so at every tick, HOST_IDLE included, as R48 says, though
R337 (d) and R374 let the idle core hold its registers: DEDUCED, notes/assumptions/32.md. -/
def tickTimers (s : State) : State :=
  { s with dm := { s.dm with
      pollT := if s.dm.pollT = 0 then 0 else s.dm.pollT - 1
      gapT := if s.dm.gapT = 0 then 0 else s.dm.gapT - 1 } }

/-- After a step CONTROLLER lets some ticks pass (U4). -/
def loadLatency (s : State) : State :=
  match s.par.ctlLatency with
  | some n => { s with ctlWait := n }
  | none => { s with ctlWait := Config.freeLatency s.draws, draws := s.draws + 1 }

/-- CONTROLLER at a tick: the timers it tests are those before the tick, a load overrides the count down (R48, R264,
R329). In HOST_IDLE the timers count on (DEDUCED, notes/assumptions/32.md). -/
def controllerC (s : State) : Option Framing × State :=
  if s.ctlWait = 0 then
    match ctlStep (s.dm.pollT == 0) (s.dm.gapT == 0) (tickTimers s) with
    | none => (none, tickTimers s)
    | some (w, s') => (w, loadLatency s')
  else (none, { tickTimers s with ctlWait := s.ctlWait - 1 })

/-- The host writes REINIT at this tick. -/
def reinitWritten (s : State) : Bool :=
  s.ports.host.hSel && s.ports.host.hWe && (s.ports.host.hAddr == 0) && decide (decodeHost s.ports.host.hWdata = .reinit)

/-- One tick (R329): a REINIT write overrides every other step; else E.REINIT replaces ENGINE's phase step; else HOST,
CONTROLLER and ENGINE move at once, each from the state before the tick. -/
def stepC (s : State) : Host.Outcome State Fault Refusal :=
  if reinitWritten s then exec .reinit s
  else
    match controllerC s with
    | (none, s') => hostAccess s (engineTick (!s.cmd.isEmpty) (!resFull s) s')
    | (some w, s') => onNext (exec (.setFraming w) s') (hostAccess s)

/-! ### The issue port -/

/-- CONTROLLER stands between the push and the pop of an operation of its own sequence (R47, R206). -/
def awaitsResult (s : State) : Bool :=
  match s.seq with
  | .pop _ => true
  | .hostIdle | .discoverStart | .searchStart | .searchExit | .sampleStart | .readAll | .dev | .sampleDone | .push _
  | .pollGap => false

/-- A direct operation need not wait (R85, R206). "CONTROLLER never pushes a second element before popping the result of
the first" (R206; R371: one BusController operation at a time): an issued operation that pushes waits while the core's own
sequence stands between its push and its pop. That it runs at once when the sequence stands between two operations is a
DESIGN CHOICE, and so is the rest of the port (notes/assumptions/33.md). -/
def issueReady (i : Instr) (s : State) : Bool :=
  match i with
  | .nop | .discover | .sampleAll | .reinit => true
  | .reset | .writeByte _ | .readByte | .writeBit _ | .readBit => !awaitsResult s && bcReady s
  | .setFraming _ | .eReinit _ => true
  | .eReset | .eXfer8 _ | .eXfer1 _ => engineFree s
  | .addressOne => !awaitsResult s && (addressOneSend s).isSome
  | .searchCmd | .addressAll | .startConversion | .readScratchpad => !awaitsResult s && bcReady s
  | .crc8 _ | .tempDecode _ | .resDecode _ => true

/-- One step of the agents, by level; then the next tick's inputs. -/
def agentsStep (s : State) : Host.Outcome State Fault Refusal :=
  match s.level with
  | .transaction => onNext (stepT s) (fun t => .next (nextCycle t))
  | .cycle => onNext (stepC s) (fun t => .next (nextCycle t))

/-- A word at the issue port is decoded and executed, unless the operation has to wait: then the agents move. -/
def issueStep (q : Target × List Byte) (s : State) : Host.Outcome State Fault Refusal :=
  match decode q.1 q.2 with
  | .ok i => if issueReady i s then exec i { s with issue := none } else agentsStep s
  | .error .efrIdle => .next { s with issue := none }
  | .error e => .refused (.undecodable e)

/-- What moves in a step: reset, else a word at the issue port, else the agents. -/
def moves (s : State) : Host.Outcome State Fault Refusal :=
  if s.ports.host.rst then .next (nextCycle (resetTick s))
  else
    match s.issue with
    | some q => issueStep q s
    | none => agentsStep s

/-- One step of the machine; after it `ow_in` shows the line (R31, R103). -/
def machineStep (s : State) : Host.Outcome State Fault Refusal := onNext (moves s) (fun t => .next (showLine t))

/-- A table word stored where the next step takes it: a HOST word at the host port as a write of `CTRL`, any other at
the issue port. A number that is no table word is put there as no bytes at all, which the decoder refuses (DESIGN CHOICE,
notes/assumptions/1.md). -/
def placeWord (s : State) (nbits w : Nat) : State :=
  match tableFetch nbits w with
  | some (.host, _) =>
    { s with
      ports := { s.ports with host := { rst := false, hSel := true, hWe := true, hAddr := 0, hWdata := BitVec.ofNat 32 w } }
      issue := none }
  | some q => { s with ports := { s.ports with host := { s.ports.host with rst := false } }, issue := some q }
  | none => { s with ports := { s.ports with host := { s.ports.host with rst := false } }, issue := some (.wire, []) }

end Sys2Proof.Machine
end

