-- ==== Sys2Proof/Safety.lean ====
section
/-! DEFINITION. What a safe run is: the invariants the claims use. Nothing here is part of the step. -/

namespace Sys2Proof.Machine

/-! ### Classes of places -/

/-- The operations of a search pass (R230). -/
def Place.ofSearch : Place → Bool
  | .passReset | .searchCmd | .readB1 | .readB2 | .writeDir => true
  | .sampleReset | .addrAll | .startConv | .pollRead | .devReset | .addrOne | .addrByte | .readCmd | .spByte => false

/-- The operations of one device's read in SAMPLE_ALL step 3 (R266 to R269). -/
def Place.ofDevice : Place → Bool
  | .devReset | .addrOne | .addrByte | .readCmd | .spByte => true
  | .passReset | .searchCmd | .readB1 | .readB2 | .writeDir | .sampleReset | .addrAll | .startConv | .pollRead => false

/-- The operations issued while W = 1 (R234, R239). -/
def Place.inBits : Place → Bool
  | .readB1 | .readB2 | .writeDir => true
  | .passReset | .searchCmd | .sampleReset | .addrAll | .startConv | .pollRead | .devReset | .addrOne | .addrByte
  | .readCmd | .spByte => false

/-- The operations that emit a reset element. -/
def Place.isReset : Place → Bool
  | .passReset | .sampleReset | .devReset => true
  | .searchCmd | .readB1 | .readB2 | .writeDir | .addrAll | .startConv | .pollRead | .addrOne | .addrByte | .readCmd
  | .spByte => false

/-- A pass is running that may still record a code (R230). -/
def Seq.inPass : Seq → Bool
  | .push p | .pop p => p.ofSearch
  | .hostIdle | .discoverStart | .searchStart | .searchExit | .sampleStart | .readAll | .dev | .sampleDone
  | .pollGap => false

/-- A device of step 3 is being read (R266). -/
def Seq.inDevice : Seq → Bool
  | .push p | .pop p => p.ofDevice
  | .hostIdle | .discoverStart | .searchStart | .searchExit | .sampleStart | .readAll | .dev | .sampleDone
  | .pollGap => false

/-- W is 1 between the two framing changes of a pass (R243). -/
def Seq.inBits : Seq → Bool
  | .push p | .pop p => p.inBits
  | .hostIdle | .discoverStart | .searchStart | .searchExit | .sampleStart | .readAll | .dev | .sampleDone
  | .pollGap => false

/-- The framing in force at a place of CONTROLLER's sequences (R243). -/
def Seq.framing (q : Seq) : Framing := if q.inBits then .w1 else .w8

/-- A place of DISCOVER, from its start to its exit (R230, R260). -/
def Seq.ofDiscover : Seq → Bool
  | .push p | .pop p => p.ofSearch
  | .discoverStart | .searchStart | .searchExit => true
  | .hostIdle | .sampleStart | .readAll | .dev | .sampleDone | .pollGap => false

/-! ### ENGINE's output -/

/-- The assertion phases (R178). -/
def Phase.asserts : Phase → Bool
  | .rstLow | .slLow | .slHold0 => true
  | .idle | .rstWait | .rstPush | .rstRec | .slWait1 | .slPad1 | .slRec | .elPush => false

/-- A reset sequence is under way and its result not yet delivered. -/
def Phase.resetInFlight : Phase → Bool
  | .rstLow | .rstWait | .rstPush => true
  | .idle | .rstRec | .slLow | .slWait1 | .slPad1 | .slHold0 | .slRec | .elPush => false

/-- A transfer is under way and its result not yet delivered. -/
def Phase.xferInFlight : Phase → Bool
  | .slLow | .slWait1 | .slPad1 | .slHold0 | .slRec | .elPush => true
  | .idle | .rstLow | .rstWait | .rstPush | .rstRec => false

/-- ENGINE has delivered its last result: it is in IDLE or in the recovery of a reset sequence (R308, R372). -/
def Phase.delivered : Phase → Bool
  | .idle | .rstRec => true
  | .rstLow | .rstWait | .rstPush | .slLow | .slWait1 | .slPad1 | .slHold0 | .slRec | .elPush => false

/-! ### The invariants -/

/-- The ranges and sizes of the registers and tables, and the occupancy of the channels
(R45, R46, R49 to R52, R87, and the precondition of R241). -/
abbrev State.wf (s : State) : Prop :=
  s.par.wf ∧
  (s.rom.length = s.par.nMax ∧ s.rdg.length = s.par.nMax ∧ s.dm.sp.length = 9) ∧
  (s.cmd.length ≤ s.par.fifoDepth ∧ s.res.length ≤ s.par.fifoDepth) ∧
  (s.romCount.toNat ≤ s.par.nMax ∧ s.rdgCount.toNat ≤ s.par.nMax) ∧
  (s.seq.inPass = true → s.romCount.toNat < s.par.nMax) ∧
  (s.rs.i.toNat ≤ 64 ∧ (s.seq.inBits = true → s.rs.i.toNat < 64)) ∧
  (s.dm.k.toNat ≤ s.par.nMax ∧ (s.seq = .dev → s.dm.k.toNat ≤ s.romCount.toNat) ∧
    (s.seq.inDevice = true → s.dm.k.toNat < s.romCount.toNat)) ∧
  (s.dm.j.toNat ≤ 9 ∧
    (s.seq = .push .addrByte ∨ s.seq = .pop .addrByte ∨ s.seq = .push .spByte ∨ s.seq = .pop .spByte →
      s.dm.j.toNat ≤ 8))

/-- The phases that last `ENG.cnt` ticks (R165). -/
def Phase.timed : Phase → Bool
  | .rstLow | .rstWait | .rstRec | .slLow | .slWait1 | .slPad1 | .slHold0 | .slRec => true
  | .idle | .rstPush | .elPush => false

/-- The phases inside a slot, its recovery included (R171 to R175). -/
def Phase.inSlot : Phase → Bool
  | .slLow | .slWait1 | .slPad1 | .slHold0 | .slRec => true
  | .idle | .rstLow | .rstWait | .rstPush | .rstRec | .elPush => false

/-- ENGINE's registers: the line is driven exactly in the assertion phases (R178), `ENG.nbit` counts the slots done
(R37), a timed phase has ticks left (R165). -/
abbrev State.engineOk (s : State) : Prop :=
  s.par.wf ∧ s.eng.drive = s.eng.phase.asserts ∧ s.eng.nbit.toNat ≤ 8 ∧
  (s.eng.phase.inSlot = true → s.eng.nbit.toNat < s.framing.width) ∧
  (s.eng.phase = .elPush → s.eng.nbit.toNat = s.framing.width) ∧
  (s.eng.phase.timed = true → 1 ≤ s.eng.cnt)

/-- The Readings before index n are all results: KIND is TEMP or CRC_FAIL (R275). -/
def readingsDone (rdg : List Reading) (n : Nat) : Bool := (rdg.take n).all fun r => r.kind != .empty

/-- Some Reading before index n is a CRC failure (R276 c). -/
def someCrcFail (rdg : List Reading) (n : Nat) : Bool := (rdg.take n).any fun r => r.kind == .crcFail

/-- The Readings and CRC_MISMATCH agree, at every place of the sequences; in HOST_IDLE it is R276 (a) to (c). -/
abbrev State.readingsOk (s : State) : Prop :=
  match s.seq with
  | .hostIdle =>
    (s.rdgCount = 0 ∨ s.rdgCount = s.romCount) ∧ readingsDone s.rdg s.rdgCount.toNat = true ∧
      s.flags.crcMismatch = someCrcFail s.rdg s.rdgCount.toNat
  | .discoverStart | .sampleStart => s.flags.crcMismatch = false
  | .dev | .sampleDone =>
    s.rdgCount = 0 ∧ readingsDone s.rdg s.dm.k.toNat = true ∧ s.flags.crcMismatch = someCrcFail s.rdg s.dm.k.toNat ∧
      (s.seq = .sampleDone → s.dm.k = s.romCount)
  | .push p | .pop p =>
    s.rdgCount = 0 ∧
      (if p.ofDevice then
        readingsDone s.rdg s.dm.k.toNat = true ∧ s.flags.crcMismatch = someCrcFail s.rdg s.dm.k.toNat
       else s.flags.crcMismatch = false)
  | .searchStart | .searchExit | .readAll | .pollGap =>
    s.rdgCount = 0 ∧ s.flags.crcMismatch = false

/-- At most one of the three flags that end a search (R329). -/
def Flags.atMostOneSearchFlag (f : Flags) : Bool :=
  !(f.busFault && f.searchFault) && !(f.busFault && f.tableFull) && !(f.searchFault && f.tableFull)

/-- The flag sets a finished DISCOVER can leave (R329, V-H9). -/
def Flags.afterDiscover (f : Flags) : Bool := !f.crcMismatch && !f.pollTimeout && f.atMostOneSearchFlag

/-- The flag sets a finished SAMPLE_ALL can leave (R329, V-H9). -/
def Flags.afterSampleAll (f : Flags) : Bool :=
  !f.searchFault && !f.tableFull && !(f.busFault && (f.crcMismatch || f.pollTimeout))

/-- The fault flags that are possible at a place of the sequences (R321, R329). -/
def State.flagsOk (s : State) : Bool :=
  match s.seq with
  | .hostIdle => s.flags.afterDiscover || s.flags.afterSampleAll
  | .searchExit => s.flags.afterDiscover
  | .discoverStart | .searchStart | .sampleStart | .pollGap => s.flags == .clear
  | .push p | .pop p =>
    if p.ofDevice then s.flags.afterSampleAll && !s.flags.busFault else s.flags == .clear
  | .readAll | .dev | .sampleDone => s.flags.afterSampleAll && !s.flags.busFault

/-- How CONTROLLER, the channels and ENGINE stand to each other in a run of the core's own sequences: at most one element
is in CMD, in flight or in RES (R87), it is the one CONTROLLER waits for, FRAMING is the one of the place (R243, R308), so
that once a transfer's result is popped ENGINE is quiescent for a SET_FRAMING (R373). Nothing is issued by a test harness. -/
abbrev State.flowOk (s : State) : Prop :=
  s.par.wf ∧ s.issue = none ∧ s.framing = s.seq.framing ∧
  (s.level = .transaction → s.eng.phase = .idle) ∧
  match s.seq with
  | .pop p =>
    (s.cmd.length = 1 ∧ s.cmd.all (fun e => elemRst e == p.isReset) = true ∧ s.res = [] ∧ s.eng.phase.delivered = true) ∨
    (s.cmd = [] ∧ s.res = [] ∧ (if p.isReset then s.eng.phase.resetInFlight else s.eng.phase.xferInFlight) = true) ∨
    (s.cmd = [] ∧ s.res.length = 1 ∧ (s.eng.phase = .idle ∨ (p.isReset = true ∧ s.eng.phase = .rstRec)))
  | .hostIdle | .discoverStart | .searchStart | .searchExit | .sampleStart | .readAll | .dev | .sampleDone | .push _
  | .pollGap => s.cmd = [] ∧ s.res = [] ∧ s.eng.phase.delivered = true

/-! ### What a channel operation may change -/

/-- s with other ENGINE registers, BUS agent, draw count, `ow_in` and channels: all that ENGINE's bus activity and the
channel steps of BusController touch. -/
def setChannels (g : Engine) (b : BusAgent) (d : Nat) (o : Bool) (c : List Elem) (q : List Byte) (s : State) : State :=
  { s with eng := g, bus := b, draws := d, ports := { s.ports with owIn := o }, cmd := c, res := q }

/-- s with the ENGINE registers, BUS agent, draw count, `ow_in` and channels of t. -/
def withChannelsOf (t s : State) : State := setChannels t.eng t.bus t.draws t.ports.owIn t.cmd t.res s

/-- The host does nothing, now and later, and nothing is issued. -/
abbrev State.hostQuiet (s : State) : Prop := s.ports.host = .idle ∧ s.inbox = [] ∧ s.issue = none

/-! ### The vocabulary of the claims -/

/-- Every register of R30 at its reset value, written out from R61 to R64. The ports, the agents around the core, the
parameters and the model's own fields are not registers of R30's list that reset writes. -/
abbrev State.atReset (s : State) : Prop :=
  (s.eng.phase = .idle ∧ s.eng.cnt = 0 ∧ s.eng.osr = 0 ∧ s.eng.isr = 0 ∧ s.eng.nbit = 0 ∧ s.eng.cur = false ∧
    s.eng.drive = false ∧ s.framing = .w8 ∧ s.cmd = [] ∧ s.res = []) ∧
  (s.romCount = 0 ∧ s.rdgCount = 0 ∧ s.rom = List.replicate s.par.nMax 0#64 ∧
    s.rdg = List.replicate s.par.nMax { kind := .empty, resf := 0, t16 := 0 }) ∧
  (s.seq = .hostIdle ∧ s.presence = false ∧
    s.rs = { rom := 0, last := none, new := none, i := 0, b1 := false, b2 := false, dir := false } ∧
    s.dm = { k := 0, j := 0, sp := List.replicate 9 0#8, crc := 0, pollT := 0, gapT := 0 }) ∧
  s.flags = { busFault := false, searchFault := false, crcMismatch := false, pollTimeout := false, tableFull := false }

/-- The host writes `CTRL` at this tick. -/
def ctrlWritten (s : State) : Bool := s.ports.host.hSel && s.ports.host.hWe && s.ports.host.hAddr == 0

/-- `OP`, bits 1:0 of the word the host writes (R126). -/
def ctrlOp (s : State) : BitVec 2 := s.ports.host.hWdata.setWidth 2

/-- No reset input and no word at the test harness's issue port: the step is one of the core's agents. -/
abbrev State.agentsMove (s : State) : Prop := s.ports.host.rst = false ∧ s.issue = none

/-- A `CTRL` write that clears the fault flags: an accepted DISCOVER or SAMPLE_ALL, or REINIT (R321 c). -/
def clearsFlags (s : State) : Bool :=
  ctrlWritten s && (ctrlOp s == 3 || (s.seq == .hostIdle && (ctrlOp s == 1 || ctrlOp s == 2)))

/-- Level T, the host silent, ENGINE with nothing to do: the next step is CONTROLLER's. -/
abbrev State.controllerTurn (s : State) : Prop :=
  s.level = .transaction ∧ s.hostQuiet ∧ s.eng.phase = .idle ∧ s.cmd = []

/-- Level C, the host silent, CMD empty, ENGINE in IDLE or in the recovery of a reset sequence, CONTROLLER not waiting: at
this tick CONTROLLER makes its step. -/
abbrev State.controllerTick (s : State) : Prop :=
  s.level = .cycle ∧ s.hostQuiet ∧ s.eng.phase.delivered = true ∧ s.cmd = [] ∧ s.ctlWait = 0

/-- CONTROLLER has no step it could make: no sequence runs, or it waits for room in CMD, for a result, or for the poll gap
at Level C (R85, R206, R264). -/
def controllerBlocked (s : State) : Bool :=
  match s.seq with
  | .hostIdle => true
  | .push _ => decide (s.par.fifoDepth ≤ s.cmd.length)
  | .pop _ => s.res == []
  | .pollGap => s.dm.gapT != 0
  | .discoverStart | .searchStart | .searchExit | .sampleStart | .readAll | .dev | .sampleDone => false

/-- The next step is CONTROLLER's, at either level. -/
abbrev State.controllerMoves (s : State) : Prop := s.controllerTurn ∨ s.controllerTick

/-- The step in which CONTROLLER changes the state by f. At Level T it is f; at Level C the timers count down first (R48),
CONTROLLER's latency is loaded (R32, U4; notes/assumptions/7.md), ENGINE, which found CMD empty, makes its own tick (R166,
R170) and `ow_in` shows the line (R31, R103; notes/assumptions/9.md). -/
def moved (f : State → State) (s : State) : State :=
  match s.level with
  | .transaction => f s
  | .cycle => showLine (engineTick false false (loadLatency (f (tickTimers s))))

/-- The poll has no budget left: at Level C `DM.poll_t` is 0 (R265), at Level T this read is the `POLL_MAX_READS`-th (U5;
notes/assumptions/6.md). -/
def budgetSpent (s : State) : Bool :=
  match s.level with
  | .transaction => decide (s.par.pollMaxReads ≤ s.pollReads + 1)
  | .cycle => s.dm.pollT == 0

/-- k steps of the machine. -/
def run : Nat → State → Host.Outcome State Fault Refusal
  | 0, s => .next s
  | k + 1, s => onNext (step s) (run k)

/-- How many of the slots before slot k of a transfer of d are sampled. -/
def samplesBefore (d : Byte) : Nat → Nat
  | 0 => 0
  | k + 1 => samplesBefore d k + (if d.getLsbD k then 1 else 0)

/-- The effect of the eight slots of a byte on the bus (R91), and at Level C on ENGINE's registers. -/
def eightSlots (d : Byte) (s : State) : State := afterXfer d (slots d 8 0 0#8 s)

/-- The effect of one slot with bit 0 of d on the bus, and at Level C on ENGINE's registers. -/
def oneSlot (d : Byte) (s : State) : State :=
  let x := busSlot (d.getLsbD 0) s
  afterXfer d (x.1, if x.2 then 1#8 else 0#8)

/-- The effect of several bytes sent in 8-bit framing, one after the other, on the bus (R91). -/
def afterBytes (bs : List Byte) (s : State) : State := bs.foldl (fun u b => eightSlots b u) s

/-- The nine BusController and WIRE operations that are one transfer or one reset element (R120). -/
def busElem : Instr → Option Elem
  | .reset => some 0x100#9
  | .writeByte v => some (byteElem v)
  | .readByte => some 0x0FF#9
  | .writeBit b => some (bitElem b)
  | .readBit => some 0x001#9
  | .searchCmd => some 0x0F0#9
  | .addressAll => some 0x0CC#9
  | .startConversion => some 0x044#9
  | .readScratchpad => some 0x0BE#9
  | .nop | .discover | .sampleAll | .reinit | .setFraming _ | .eReset | .eXfer8 _ | .eXfer1 _ | .eReinit _ | .addressOne
  | .crc8 _ | .tempDecode _ | .resDecode _ => none

end Sys2Proof.Machine
end

