-- ==== Sys2Proof/Certificates/Slice0/Obligations.lean ====
section
/-! DEFINITION. The statements for the provers, from the spec's numbered rules. -/

open Sys2Proof Sys2Proof.Machine

/-! ### Encoding -/

/-- Every well-formed operation is read back from its own words by the target that takes them (R120 to R127, R133). -/
def Obligations.EveryInstructionDecodesBackFromItsWords : Prop :=
  ∀ i : Instr, i.wellFormed = true → decode (encode i).1 (encode i).2 = .ok i

/-- Words written out from the tables of R121, R123 to R127 and the examples of R232, R262, R263, R267, R268. -/
def Obligations.SpecWordsDecode : Prop :=
  decode .host [0x01#8, 0x00#8, 0x00#8, 0x00#8] = .ok .discover ∧
  decode .host [0xF1#8, 0xFF#8, 0xFF#8, 0xFF#8] = .ok .discover ∧
  decode (.bc .byteDrop) [0x00#8, 0x01#8] = .ok .reset ∧
  decode (.bc .byteDrop) [0xCC#8, 0x00#8] = .ok (.writeByte 0xCC#8) ∧
  decode (.bc .bitKeep) [0x01#8, 0x00#8] = .ok .readBit ∧
  decode (.eng .w8) [0xA5#8, 0x01#8] = .ok .eReset ∧
  decode (.eng .w8) [0xF0#8, 0x00#8] = .ok (.eXfer8 0xF0#8) ∧
  decode (.eng .w1) [0xFE#8, 0x00#8] = .ok (.eXfer1 false) ∧
  decode .engSideband [0x03#8] = .ok (.eReinit .w1) ∧
  decode .wire [0xBE#8] = .ok .readScratchpad

/-- R126: bits 1:0 of the word written to `CTRL` are the operation, bits 31:2 are ignored. R123, R124: bit 8 of an
element selects the reset sequence; without it FRAMING selects between the two transfers, whose data are all eight bits
or bit 0 alone. -/
def Obligations.WordsDecodeByTheirFields : Prop :=
  (∀ w : HWord, decode .host (natBytes 4 w.toNat) = .ok
    (if w.toNat % 4 = 0 then .nop else if w.toNat % 4 = 1 then .discover else if w.toNat % 4 = 2 then .sampleAll
     else .reinit)) ∧
  (∀ (e : Elem) (w : Framing), decode (.eng w) (natBytes 2 e.toNat) = .ok
    (if 256 ≤ e.toNat then .eReset
     else match w with
       | .w8 => .eXfer8 (BitVec.ofNat 8 e.toNat)
       | .w1 => .eXfer1 (e.toNat % 2 == 1)))

/-- R133: every pattern at every decoded layer has an effect and none faults. A host word and a popped element are
always an operation that answers a next state; an EFR word is one with reinit = 1. The last clause is the model's: an EFR
word with reinit = 0 at the issue port (DESIGN CHOICE, notes/assumptions/1.md) is taken without effect (DEDUCED,
notes/assumptions/21.md). -/
def Obligations.NoPatternIsIllegal : Prop :=
  (∀ (w : HWord) (s : State), ∃ i t, decode .host (natBytes 4 w.toNat) = .ok i ∧ exec i s = .next t) ∧
  (∀ (e : Elem) (w : Framing) (s : State), ∃ i t, decode (.eng w) (natBytes 2 e.toNat) = .ok i ∧ exec i s = .next t) ∧
  (∀ (w : Framing) (s : State), ∃ t,
    decode .engSideband [if w.bit then 3#8 else 2#8] = .ok (.eReinit w) ∧ exec (.eReinit w) s = .next t) ∧
  (∀ (b : Byte) (s : State), b.toNat < 2 → s.ports.host.rst = false → s.issue = some (.engSideband, [b]) →
    step s = .next (showLine { s with issue := none }))

/-! ### The step runs what is decoded -/

/-- A word at the issue port that decodes to an operation which need not wait is executed by the step; one that has to
wait lets the agents move instead; bytes that are no operation are refused by name (the model's choice,
notes/assumptions/1.md). The step adds nothing but what `ow_in` shows (notes/assumptions/9.md). -/
def Obligations.StepRunsTheIssuedInstruction : Prop :=
  ∀ (s : State) (q : Target × List Byte), s.ports.host.rst = false → s.issue = some q →
    (∀ i, decode q.1 q.2 = .ok i → issueReady i s = true →
      step s = onNext (exec i { s with issue := none }) (fun t => .next (showLine t))) ∧
    (∀ i, decode q.1 q.2 = .ok i → issueReady i s = false →
      step s = onNext (agentsStep s) (fun t => .next (showLine t))) ∧
    (∀ e, decode q.1 q.2 = .error e → e ≠ .efrIdle → step s = .refused (.undecodable e))

/-- At Level T the host access is the whole step (the order of the agents is the model's choice,
notes/assumptions/3.md): the step executes the operation written to `CTRL`, in HOST_IDLE any of the four, otherwise REINIT
alone; another write changes nothing. With no host access it executes the element at the head of CMD when ENGINE is free
(R160). Then the next tick's inputs are taken. R165, R329: at Level C, at a tick without a host access and without a step of
CONTROLLER, because it waits (R85, R206, R264), no sequence runs, or its latency is not over (U4; notes/assumptions/7.md,
DESIGN CHOICE), ENGINE makes its tick, on the channels as they were before it, whatever stands in CMD and whatever is in
flight; the timers count (R48; in HOST_IDLE too: DEDUCED, notes/assumptions/32.md) and `ow_in` shows the line
(notes/assumptions/9.md, DESIGN CHOICE). -/
def Obligations.StepRunsTheHostCommandOrTheHeadElement : Prop :=
  (∀ (s : State) (i : Instr), s.agentsMove → s.level = .transaction →
    (ctrlWritten s = true → decode .host (natBytes 4 s.ports.host.hWdata.toNat) = .ok i →
      (s.seq = .hostIdle ∨ i = .reinit → step s = onNext (exec i s) (fun t => .next (nextCycle t))) ∧
      (s.seq ≠ .hostIdle → i ≠ .reinit → step s = .next (nextCycle s))) ∧
    (s.ports.host.hSel = true → s.ports.host.hWe = true → s.ports.host.hAddr ≠ 0 → step s = .next (nextCycle s)) ∧
    (∀ (e : Elem) (rest : List Elem), s.ports.host.hSel = false → engineFree s = true → s.cmd = e :: rest →
      decode (.eng s.framing) (natBytes 2 e.toNat) = .ok i →
      step s = onNext (exec i { s with cmd := rest }) (fun t => .next (nextCycle t)))) ∧
  (∀ s : State, s.agentsMove → s.level = .cycle → s.ports.host.hSel = false →
    (s.ctlWait = 0 → controllerBlocked s = true →
      step s = .next (showLine (nextCycle (engineAlone (tickTimers s))))) ∧
    (s.ctlWait ≠ 0 →
      step s = .next (showLine (nextCycle (engineAlone { tickTimers s with ctlWait := s.ctlWait - 1 })))))

/-- A table word placed by `withFetchWord` is what the next step runs, in every idle and quiescent state (the model's
choice, notes/assumptions/1.md and 2.md). -/
def Obligations.PlacedTableWordIsRunNext : Prop :=
  ∀ (s : State) (nbits w : Nat) (i : Instr), s.level = .transaction → s.seq = .hostIdle → quiescent s = true →
    0 < s.par.fifoDepth → decodeTableWord nbits w = some i →
    step (s.withFetchWord nbits w) =
      if nbits = 32 then onNext (exec i (s.withFetchWord nbits w)) (fun t => .next (nextCycle t))
      else exec i { s.withFetchWord nbits w with issue := none }

/-! ### Host commands, reset -/

/-- R301: NOP changes no state, the fault flags included. R302, R303: in HOST_IDLE a DISCOVER or SAMPLE_ALL clears the
five flags and starts its sequence in the same step, so BUSY reads 1 from then on; nothing else changes. Written at a tick of
Level C, a NOP leaves that tick exactly what it would be without the access, and an accepted DISCOVER or SAMPLE_ALL does but
for the flags and `CTL.seq`. -/
def Obligations.HostCommandsInHostIdle : Prop :=
  ∀ s : State, exec .nop s = .next s ∧
    (s.agentsMove → s.level = .cycle → ctrlWritten s = true →
      let quiet := step { s with ports := { s.ports with host := .idle } }
      (ctrlOp s = 0 → step s = quiet) ∧
      (s.seq = .hostIdle → ∃ u, quiet = .next u ∧
        (ctrlOp s = 1 →
          step s = .next { u with flags := ⟨false, false, false, false, false⟩, seq := .discoverStart }) ∧
        (ctrlOp s = 2 →
          step s = .next { u with flags := ⟨false, false, false, false, false⟩, seq := .sampleStart }))) ∧
    (s.seq = .hostIdle →
      exec .discover s = .next { s with flags := ⟨false, false, false, false, false⟩, seq := .discoverStart } ∧
      exec .sampleAll s = .next { s with flags := ⟨false, false, false, false, false⟩, seq := .sampleStart } ∧
      ∀ i t, i = .discover ∨ i = .sampleAll → exec i s = .next t → (statusWord t).getLsbD 0 = true)

/-- R305: a DISCOVER or SAMPLE_ALL while a sequence runs is ignored entirely. The operation changes nothing; written at a
tick of Level C it leaves that tick exactly what it would be without the access, so nothing is disturbed or queued. -/
def Obligations.CommandWhileBusyIsIgnored : Prop :=
  ∀ s : State, s.seq ≠ .hostIdle →
    exec .discover s = .next s ∧ exec .sampleAll s = .next s ∧
    (s.agentsMove → s.level = .cycle → ctrlWritten s = true → ctrlOp s = 1 ∨ ctrlOp s = 2 →
      step s = step { s with ports := { s.ports with host := .idle } })

/-- R304, R362: REINIT is accepted in every state and leaves every register at its reset value, in the step of the write
at either level; the line, and so the devices, see nothing of it. -/
def Obligations.ReinitEqualsReset : Prop :=
  ∀ s : State,
    (∃ t, exec .reinit s = .next t ∧ t.atReset ∧ t.par = s.par ∧ t.bus = s.bus ∧ t.draws = s.draws) ∧
    (s.agentsMove → ctrlWritten s = true → ctrlOp s = 3 →
      ∃ t, step s = .next t ∧ t.atReset ∧ t.par = s.par ∧ t.bus = s.bus ∧ t.draws = s.draws)

/-- R360: at a tick with `rst` = 1 the core takes the reset state and does nothing else: a read returns the reset-state
value of its word, which is 0 everywhere, a write is ignored, no agent moves. Two clauses are the model's choice: an
issued word stays at the issue port (notes/assumptions/19.md), and without a read `h_rdata` keeps its value
(notes/assumptions/25.md). -/
def Obligations.ResetInputTakesTheResetState : Prop :=
  ∀ s : State, s.ports.host.rst = true →
    ∃ t, step s = .next t ∧ t.atReset ∧ t.par = s.par ∧ t.bus = s.bus ∧ t.draws = s.draws ∧ t.issue = s.issue ∧
      t.ports.hRdata = if s.ports.host.hSel && !s.ports.host.hWe then 0#32 else s.ports.hRdata

/-- R64: in the reset state every host word reads 0, and with a silent host the core stays in it, the line released and
the bus untouched, at either level. -/
def Obligations.ResetStateReadsZeroAndStays : Prop :=
  ∀ s : State, s.atReset →
    (∀ a : BitVec 10, hostWord s a.toNat s.draws = 0) ∧
    (s.hostQuiet → ∃ t, step s = .next t ∧ t.atReset ∧ t.hostQuiet ∧ t.bus = s.bus ∧ t.draws = s.draws)

/-- R374: while BUSY = 0, and no `CTRL` write or reset comes, the tables, the counts, the flags, presence, the search
registers, FRAMING and DeviceManager's registers but the timers do not change, and in a quiescent core (R372) neither do
ENGINE, the channels and the bus. At Level C the timers, and the recovery of a reset sequence, count on while the core is idle
(DEDUCED, notes/assumptions/32.md); at Level T the timers stand (DESIGN CHOICE, notes/assumptions/12.md). -/
def Obligations.TablesAreStableWhileIdle : Prop :=
  ∀ s t : State, s.agentsMove → s.seq = .hostIdle → ctrlWritten s = false → step s = .next t →
    t.seq = .hostIdle ∧ t.rom = s.rom ∧ t.romCount = s.romCount ∧ t.rdg = s.rdg ∧ t.rdgCount = s.rdgCount ∧
    t.flags = s.flags ∧ t.presence = s.presence ∧ t.rs = s.rs ∧ t.framing = s.framing ∧
    t.dm = { s.dm with pollT := t.dm.pollT, gapT := t.dm.gapT } ∧ (s.level = .transaction → t.dm = s.dm) ∧
    (quiescent s = true → t.eng = s.eng ∧ t.cmd = [] ∧ t.res = [] ∧ t.bus = s.bus)

/-! ### Host reads -/

/-- R54: the bits of the STATUS word. -/
def Obligations.StatusWordBits : Prop :=
  ∀ (s : State) (k : Nat), k < 32 →
    (statusWord s).getLsbD k =
      (match k with
       | 0 => decide (s.seq ≠ .hostIdle)
       | 1 => s.presence
       | 4 => s.flags.busFault
       | 5 => s.flags.searchFault
       | 6 => s.flags.crcMismatch
       | 7 => s.flags.pollTimeout
       | 8 => s.flags.tableFull
       | _ => false)

/-- R55, R51, R82: the content of every word index while BUSY = 0, with the tables at their sizes. -/
def Obligations.HostRegisterMap : Prop :=
  ∀ (s : State) (d : Nat), s.wf → s.seq = .hostIdle →
    hostWord s 0x000 d = 0 ∧ hostWord s 0x001 d = statusWord s ∧
    hostWord s 0x002 d = BitVec.ofNat 32 s.romCount.toNat ∧ hostWord s 0x003 d = BitVec.ofNat 32 s.rdgCount.toNat ∧
    (∀ a, 0x004 ≤ a → a < 0x100 → hostWord s a d = 0) ∧
    (∀ (k : Nat) (c : RomCode), k < s.par.nMax → s.rom[k]? = some c →
      hostWord s (0x100 + 2 * k) d = (if k < s.romCount.toNat then c.extractLsb' 0 32 else 0) ∧
      hostWord s (0x101 + 2 * k) d = (if k < s.romCount.toNat then c.extractLsb' 32 32 else 0)) ∧
    (∀ a, 0x100 + 2 * s.par.nMax ≤ a → a < 0x200 → hostWord s a d = 0) ∧
    (∀ (k : Nat) (r : Reading), k < s.par.nMax → s.rdg[k]? = some r →
      hostWord s (0x200 + k) d = if k < s.rdgCount.toNat then
        BitVec.ofNat 32 ((match r.kind with | .empty => 0 | .temp => 1 | .crcFail => 2) * 2 ^ 30 +
          r.resf.toNat * 2 ^ 16 + r.t16.toNat) else 0) ∧
    (∀ a, 0x200 + s.par.nMax ≤ a → a < 0x400 → hostWord s a d = 0)

/-- R81, R98: a read completes in its step, in every state, shows the word of the map computed from the state before, and
has no side effect. At Level T nothing but `h_rdata` and the next inputs changes; that the access is the whole step there is
the model's order (notes/assumptions/3.md, DESIGN CHOICE). At Level C the tick with the read is the tick without the access but
for `h_rdata`. R101: while BUSY = 1 an unspecified word is a free value, and the read uses up one draw of the model's (DEDUCED,
notes/assumptions/15.md), so that a line without a device model shows the draw after it (notes/assumptions/9.md, DESIGN
CHOICE). A tick of a test harness's run that is refused (U3, notes/assumptions/14.md) is refused with the read as without it. -/
def Obligations.HostReadReturnsTheWordAndChangesNothing : Prop :=
  ∀ s : State, s.agentsMove → s.ports.host.hSel = true → s.ports.host.hWe = false →
    let w := fun d => hostWord s s.ports.host.hAddr.toNat d
    let quiet := step { s with ports := { s.ports with host := { s.ports.host with hSel := false } } }
    (s.level = .transaction → step s = .next (nextCycle { s with
      ports := { s.ports with hRdata := w s.draws }
      draws := if s.seq = .hostIdle then s.draws else s.draws + 1 })) ∧
    (s.level = .cycle → s.seq = .hostIdle → ∃ u, quiet = .next u ∧
      step s = .next { u with ports := { u.ports with hRdata := w s.draws } }) ∧
    (s.level = .cycle → s.seq ≠ .hostIdle → step s = onNext quiet (fun u => .next (showLine { u with
      ports := { u.ports with hRdata := w u.draws }
      draws := u.draws + 1 })))

/-- R101: while BUSY = 1 bit 0 of STATUS reads 1 and bits 31:9 read 0 whatever the free values are; `CTRL` and the
reserved words read 0. -/
def Obligations.BusyReadsExactly : Prop :=
  ∀ (s : State) (d : Nat), s.par.wf → s.seq ≠ .hostIdle →
    (hostWord s 0x001 d).getLsbD 0 = true ∧ (∀ k, 9 ≤ k → (hostWord s 0x001 d).getLsbD k = false) ∧
    hostWord s 0x000 d = 0 ∧ (∀ a, 0x004 ≤ a → a < 0x100 → hostWord s a d = 0) ∧
    (∀ a, 0x100 + 2 * s.par.nMax ≤ a → a < 0x200 → hostWord s a d = 0) ∧
    (∀ a, 0x200 + s.par.nMax ≤ a → hostWord s a d = 0)

/-- R82: a write of any word but `CTRL` is ignored: at Level C the tick is exactly what it would be without the access. -/
def Obligations.WritesBesideCtrlAreIgnored : Prop :=
  ∀ s : State, s.agentsMove → s.level = .cycle → s.ports.host.hSel = true → s.ports.host.hWe = true →
    s.ports.host.hAddr ≠ 0 → step s = step { s with ports := { s.ports with host := .idle } }

/-! ### BusController and the protocol bytes -/

/-- R200: RESET on a quiescent ENGINE completes; presence is the complement of the level the bus gave. The value handed
to the caller stands in the model's register `ret` (notes/assumptions/5.md). R169, R170, R372: at Level C ENGINE is then in
the recovery, `T_RSTREC` ticks before it accepts the next element: an operation that is one element waits, and a SET_FRAMING
is refused by name (R373, U3). That a RESET of the test harness takes no ticks up to there is the model's choice
(notes/assumptions/4.md and 19.md). -/
def Obligations.ResetOperationRecordsPresence : Prop :=
  ∀ s : State, quiescent s = true → 0 < s.par.fifoDepth →
    let u := (busReset s).1
    let level := (busReset s).2
    ∃ t, exec .reset s = .next t ∧
      t = { u with
        presence := !level
        ret := if level then 0 else 1
        eng := if s.level = .cycle then
          { s.eng with phase := .rstRec, cnt := s.par.tRstrec, isr := if level then 1 else 0, drive := false }
          else s.eng } ∧
      (s.level = .cycle →
        (∀ i, busElem i ≠ none → issueReady i t = false ∧ exec i t = .next t) ∧
        (∀ w, exec (.setFraming w) t = .refused .framingNotQuiescent))

/-- R201, R202, R207 with ENGINE quiescent: with W = 8 WRITE_BYTE performs the eight slots of its byte and drops the
result, READ_BYTE those of 0xFF and hands the result over; with W = 1 each performs one slot with bit 0 of its byte. The
value handed over stands in the model's register `ret` (notes/assumptions/5.md); at
Level C ENGINE's registers are left as the slots leave them (notes/assumptions/4.md). -/
def Obligations.ByteOperationsPerformTheirSlots : Prop :=
  ∀ s : State, quiescent s = true → 0 < s.par.fifoDepth →
    (s.framing = .w8 →
      (∀ v : Byte, exec (.writeByte v) s = .next (eightSlots v s)) ∧
      exec .readByte s = .next { eightSlots 0xFF#8 s with ret := (slots 0xFF#8 8 0 0#8 s).2.setWidth 16 }) ∧
    (s.framing = .w1 →
      (∀ v : Byte, exec (.writeByte v) s = .next (oneSlot v s)) ∧
      exec .readByte s = .next { oneSlot 0xFF#8 s with ret := if (busSlot true s).2 then 1 else 0 })

/-- R203, R204, R207 with ENGINE quiescent: with W = 1 WRITE_BIT performs one slot with its bit, READ_BIT one slot with
bit 1 whose output bit it hands over; with W = 8 each performs eight slots with the bits b, 0, 0, 0, 0, 0, 0, 0. The value
handed over stands in the model's register `ret` (notes/assumptions/5.md); at
Level C ENGINE's registers are left as the slots leave them (notes/assumptions/4.md). -/
def Obligations.BitOperationsPerformTheirSlots : Prop :=
  ∀ s : State, quiescent s = true → 0 < s.par.fifoDepth →
    (s.framing = .w1 →
      (∀ b : Bool, exec (.writeBit b) s = .next (oneSlot (if b then 1#8 else 0#8) s)) ∧
      exec .readBit s = .next { oneSlot 1#8 s with ret := if (busSlot true s).2 then 1 else 0 }) ∧
    (s.framing = .w8 →
      (∀ b : Bool, exec (.writeBit b) s = .next (eightSlots (if b then 1#8 else 0#8) s)) ∧
      exec .readBit s = .next { eightSlots 1#8 s with ret := if (slots 1#8 8 0 0#8 s).2.getLsbD 0 then 1 else 0 })

/-- R205, R373: SET_FRAMING on a quiescent ENGINE takes the width and puts ENGINE's registers at their reset values,
whatever the width was; nothing else changes. While ENGINE is not quiescent the run is refused by name (U3). -/
def Obligations.SetFramingNeedsAQuiescentEngine : Prop :=
  ∀ (s : State) (w : Framing),
    (quiescent s = true → exec (.setFraming w) s = .next { s with
      framing := w
      eng := ⟨.idle, 0, 0, 0, 0, false, false⟩ }) ∧
    (quiescent s = false → exec (.setFraming w) s = .refused .framingNotQuiescent)

/-- R85, R206: an operation that is one element completes whenever there is room for its element, or ENGINE can make
some, and a result is there or ENGINE can make one. R83, R84, R86: its element goes behind CMD and it pops the head of RES;
in between ENGINE has taken elements m from the head of CMD and put as many results n behind RES; CMD and RES stay within
their capacity. While it is blocked nothing changes. That an operation executed by itself is
carried through in one step, ENGINE moving only when CONTROLLER waits, and that a blocked one changes nothing at all, its
push included, is the model's (DESIGN CHOICE, notes/assumptions/4.md). "CONTROLLER never pushes a second element before popping
the result of the first" (R206): while the core's own sequence stands between its push and its pop, an operation of the test
harness waits at the issue port (DESIGN CHOICE, notes/assumptions/33.md). -/
def Obligations.BusOperationIsOnePushAndOnePop : Prop :=
  ∀ (i : Instr) (e : Elem) (s : State), busElem i = some e →
    (bcReady s = true → s.cmd.length ≤ s.par.fifoDepth → s.res.length ≤ s.par.fifoDepth →
      ∃ t r m n, exec i s = .next t ∧ s.cmd ++ [e] = m ++ t.cmd ∧ s.res ++ n = r :: t.res ∧ m.length = n.length ∧
        t.cmd.length ≤ s.par.fifoDepth ∧ t.res.length ≤ s.par.fifoDepth) ∧
    (bcReady s = false → exec i s = .next s) ∧
    (∀ p, s.seq = .pop p → issueReady i s = false ∧ issueReady .addressOne s = false)

/-- The frame of the operations that use the bus, in every state: they change the bus, the channels, `ow_in` and at Level C
ENGINE's registers, which their elements write (R166 to R177; at Level T ENGINE has none, R30), RESET also `BC.presence`, ADDRESS_ONE also `DM.j`, and the three that return a value the model's `ret`; every other register,
table, flag and counter is as before (R200 to R206, R161, R162, R267). -/
def Obligations.BusOperationsFrame : Prop :=
  ∀ s t : State,
    (∀ i, busElem i ≠ none → exec i s = .next t →
      t = withChannelsOf t { s with
        presence := if i = .reset then t.presence else s.presence
        ret := if i = .reset ∨ i = .readByte ∨ i = .readBit then t.ret else s.ret }) ∧
    (exec .addressOne s = .next t → t = withChannelsOf t { s with dm := { s.dm with j := t.dm.j } }) ∧
    (∀ d b, exec .eReset s = .next t ∨ exec (.eXfer8 d) s = .next t ∨ exec (.eXfer1 b) s = .next t →
      t = withChannelsOf t s ∧ t.cmd = s.cmd) ∧
    (∀ i, busElem i ≠ none ∨ i = .addressOne ∨ i = .eReset ∨ (∃ d, i = .eXfer8 d) ∨ (∃ b, i = .eXfer1 b) →
      exec i s = .next t → s.level = .transaction → t.eng = s.eng)

/-- R127, R232, R262, R263, R268: each of the four command bytes sent alone is sent as the data of WRITE_BYTE, in every
state; with W = 8 and ENGINE quiescent that is the eight slots of the byte. At Level C
ENGINE's registers are left as the slots leave them (notes/assumptions/4.md). -/
def Obligations.ProtocolBytesAreSentAsWriteByteData : Prop :=
  ∀ s : State,
    (exec .searchCmd s = exec (.writeByte 0xF0#8) s ∧ exec .addressAll s = exec (.writeByte 0xCC#8) s ∧
      exec .startConversion s = exec (.writeByte 0x44#8) s ∧ exec .readScratchpad s = exec (.writeByte 0xBE#8) s) ∧
    (quiescent s = true → 0 < s.par.fifoDepth → s.framing = .w8 →
      exec .searchCmd s = .next (eightSlots 0xF0#8 s) ∧ exec .addressAll s = .next (eightSlots 0xCC#8 s) ∧
      exec .startConversion s = .next (eightSlots 0x44#8 s) ∧ exec .readScratchpad s = .next (eightSlots 0xBE#8 s))

/-- R267, R93: ADDRESS_ONE sends 0x55 and the eight bytes of `ROM[DM.k]`, the least significant first, so that the 64
slots carry bits 0 to 63 in order. That the code follows the byte is the spec's general knowledge (G1), and that the row
ADDRESS_ONE is the whole nine-byte step is the model's reading (notes/assumptions/20.md). It leaves `DM.j` at 8: the loop's
last value is DEDUCED (notes/assumptions/16.md). At Level C ENGINE's registers are left as the slots leave them
(notes/assumptions/4.md). -/
def Obligations.AddressOneSendsTheRomCode : Prop :=
  (∀ (s : State) (code : RomCode), quiescent s = true → 0 < s.par.fifoDepth → s.framing = .w8 →
    s.rom[s.dm.k.toNat]? = some code →
    exec .addressOne s = .next (let u := afterBytes (0x55#8 :: romBytes code) s; { u with dm := { u.dm with j := 8 } })) ∧
  (∀ (code : RomCode) (j b : Nat), j < 8 → b < 8 →
    (romBytes code).length = 8 ∧ ((romBytes code).getD j 0).getLsbD b = code.getLsbD (8 * j + b))

/-! ### ENGINE at Level T -/

/-- R161: E.RESET pushes the raw level of the presence sample, zero-extended, in either framing; while RES is full ENGINE
waits. R169, R170: executed at Level C it leaves ENGINE in the recovery, `T_RSTREC` ticks before IDLE
(notes/assumptions/4.md). -/
def Obligations.EngineResetPushesTheRawLevel : Prop :=
  ∀ s : State, s.eng.phase = .idle →
    (s.res.length < s.par.fifoDepth →
      exec .eReset s = .next { (busReset s).1 with
        res := s.res ++ [if (busReset s).2 then 1#8 else 0#8]
        eng := if s.level = .cycle then
          { s.eng with
            phase := .rstRec, cnt := s.par.tRstrec, isr := if (busReset s).2 then 1 else 0, drive := false }
          else s.eng }) ∧
    (s.par.fifoDepth ≤ s.res.length → exec .eReset s = .next s)

/-- R162: E.XFER8 with W = 8 and E.XFER1 with W = 1 perform their slots in time order and push one result element;
while RES is full ENGINE waits. At Level C
ENGINE's registers are left as the slots leave them (notes/assumptions/4.md). -/
def Obligations.EngineTransferPushesOneResult : Prop :=
  ∀ s : State, s.eng.phase = .idle →
    (s.res.length < s.par.fifoDepth →
      (s.framing = .w8 → ∀ d, exec (.eXfer8 d) s =
        .next { eightSlots d s with res := s.res ++ [(slots d 8 0 0#8 s).2] }) ∧
      (s.framing = .w1 → ∀ b, exec (.eXfer1 b) s =
        .next { oneSlot (if b then 1#8 else 0#8) s with res := s.res ++ [if (busSlot b s).2 then 1#8 else 0#8] })) ∧
    (s.par.fifoDepth ≤ s.res.length → ∀ d b, exec (.eXfer8 d) s = .next s ∧ exec (.eXfer1 b) s = .next s)

/-- R91, R92, R162 to R164: on a line whose levels at the sample instants are given, bit k of a transfer's result is the
level at its own sample if bit k of the data is 1, and 0 if it is 0, in which case no sample is taken; a transfer of
zeros gives 0 whatever the bus is. -/
def Obligations.TransferResultBits : Prop :=
  (∀ (d : Byte) (n k : Nat) (ls : List Bool) (s : State), n ≤ 8 → s.bus = .script ls →
    samplesBefore d n ≤ ls.length →
    (slots d n 0 0#8 s).2.getLsbD k = (decide (k < n) && d.getLsbD k && ls.getD (samplesBefore d k) false) ∧
    (slots d n 0 0#8 s).1.bus = .script (ls.drop (samplesBefore d n))) ∧
  (∀ (n : Nat) (s : State), (slots 0#8 n 0 0#8 s).2 = 0#8)

/-- R83, R84, R86: one ENGINE step on a whole element takes exactly the head of CMD and appends exactly one element at the
tail of RES. R30, R58: at Level T it leaves ENGINE's registers alone, and BusState is Idle before and after it. -/
def Obligations.EngineStepTakesOneAndGivesOne : Prop :=
  ∀ s t : State, engineStep s = some t →
    (∃ e r, s.cmd = e :: t.cmd ∧ t.res = s.res ++ [r] ∧ t = withChannelsOf t s) ∧
    busState s.eng.phase = .idle ∧ (s.level = .transaction → busState t.eng.phase = .idle ∧ t.eng = s.eng)

/-- R176, R88: E.REINIT acts whatever ENGINE is doing: FRAMING takes the width, ENGINE's registers are cleared with the
line released, both channels are emptied; nothing else changes. -/
def Obligations.EngineReinitFlushes : Prop :=
  ∀ (s : State) (w : Framing), exec (.eReinit w) s = .next { s with
    framing := w
    cmd := []
    res := []
    eng := ⟨.idle, 0, 0, 0, 0, false, false⟩ }

/-! ### The pure functions -/

/-- The three functions complete in every state and change nothing but the model's register `ret`, CRC8 also the
accumulator `DM.crc` (notes/assumptions/5.md). -/
def Obligations.FunctionsCompleteAndReadOnlyTheirArgument : Prop :=
  ∀ (bs : List Byte) (s : State),
    exec (.crc8 bs) s = .next { s with dm := { s.dm with crc := crc8 bs }, ret := (crc8 bs).setWidth 16 } ∧
    exec (.tempDecode bs) s = .next { s with ret := rawTemp bs } ∧
    exec (.resDecode bs) s = .next { s with ret := (resField bs).setWidth 16 }

/-- R224 (a), (b), (d): the check byte makes the CRC 0; CRC8 is linear over XOR; zeros have CRC 0. -/
def Obligations.CrcCheckByteAndLinearity : Prop :=
  (∀ d : List Byte, crc8 (d ++ [crc8 d]) = 0#8) ∧
  (∀ a b : List Byte, a.length = b.length → crc8 (List.zipWith (· ^^^ ·) a b) = crc8 a ^^^ crc8 b) ∧
  (∀ n : Nat, crc8 (List.replicate n 0#8) = 0#8) ∧ crc8 (List.replicate 9 0xFF#8) = 0x63#8

/-- R224 (c): flipping any single bit of a valid sequence makes its CRC nonzero. -/
def Obligations.CrcDetectsEverySingleBitError : Prop :=
  ∀ (s : List Byte) (j k : Nat) (v : Byte), crc8 s = 0#8 → s[j]? = some v → k < 8 →
    crc8 (s.set j (v ^^^ (1#8 <<< k))) ≠ 0#8

/-- R272: the 16 bits of TEMP_DECODE read as two's complement are the little-endian value of bytes 0 and 1; the integer
part of T/16 is the signed value of bits 15:4 and the fraction is bits 3:0, for negative values too. R273: RES_DECODE is
bits 6:5 of byte 4. -/
def Obligations.TemperatureAndResolutionDecode : Prop :=
  ∀ b0 b1 b2 b3 b4 b5 b6 b7 b8 : Byte,
    let sp := [b0, b1, b2, b3, b4, b5, b6, b7, b8]
    (rawTemp sp).toInt = b0.toNat + 256 * b1.toNat - (if b1.getLsbD 7 then 65536 else 0) ∧
    (rawTemp sp).toInt / 16 = ((rawTemp sp).extractLsb' 4 12).toInt ∧
    (rawTemp sp).toInt % 16 = ((rawTemp sp).extractLsb' 0 4).toNat ∧
    (resField sp).toNat = b4.toNat / 32 % 4

/-! ### The ROM search -/

/-- R230, R247, R260, R20: DISCOVER's first step clears both counts, the code under construction and both markers, so no
value of an earlier invocation is left, and goes to the RESET of the first pass, at either level. What a Level C tick adds
is `moved`: the model's choice (notes/assumptions/7.md and 9.md, DESIGN CHOICE). -/
def Obligations.DiscoverStartsAfresh : Prop :=
  ∀ s : State, s.controllerMoves → s.seq = .discoverStart →
    step s = .next (moved (fun u => { u with
      rdgCount := 0
      romCount := 0
      rs := { u.rs with rom := 0, last := none, new := none }
      seq := .push .passReset }) s)

/-- R231, R322: the RESET of a pass, at either level. A low sample goes on to the search command; a high one raises
BusFault and ends the operation, with the table as earlier passes left it. R232, R233: when the search command's result is
popped, W becomes 1, no discrepancy is recorded yet in this pass and the positions start at 0; ENGINE is in IDLE (R177), as
SET_FRAMING needs (R373). What a Level C tick adds is `moved`: the model's choice (notes/assumptions/7.md and 9.md, DESIGN
CHOICE). -/
def Obligations.PassResetDecides : Prop :=
  ∀ (s : State) (r : Byte), s.controllerMoves → s.res = [r] →
    (s.seq = .pop .passReset → r.getLsbD 0 = false → step s = .next (moved (fun u => { u with
      res := []
      presence := true
      seq := .push .searchCmd }) s)) ∧
    (s.seq = .pop .passReset → r.getLsbD 0 = true → step s = .next (moved (fun u => { u with
      res := []
      presence := false
      flags := { u.flags with busFault := true }
      seq := .hostIdle }) s)) ∧
    (s.seq = .pop .searchCmd → s.eng.phase = .idle → step s = .next (moved (fun u => { u with
      res := []
      rs := { u.rs with new := none, i := 0 }
      framing := .w1
      eng := ⟨.idle, 0, 0, 0, 0, false, false⟩
      seq := .push .readB1 }) s))

/-- R235, R323: the pair (1,1) raises SearchFault, restores W = 8 and ends the operation, at either level; no direction is
written, the code under construction is not recorded. ENGINE is in IDLE, as it is whenever a transfer's result has been
delivered (R177): SET_FRAMING needs it (R373). What a Level C tick adds is `moved`: the model's choice
(notes/assumptions/7.md and 9.md, DESIGN CHOICE). -/
def Obligations.PairOneOneAbortsTheSearch : Prop :=
  ∀ (s : State) (r : Byte), s.controllerMoves → s.seq = .pop .readB2 → s.res = [r] → s.rs.b1 = true →
    r.getLsbD 0 = true → s.eng.phase = .idle →
    step s = .next (moved (fun u => { u with
      res := []
      rs := { u.rs with b2 := true }
      flags := { u.flags with searchFault := true }
      framing := .w8
      eng := ⟨.idle, 0, 0, 0, 0, false, false⟩
      seq := .hostIdle }) s)

/-- R234: the first bit of the pair is kept as b1 and the second is read next. R236: when the pair differs the direction is b1 and no marker is touched. R237, R238: at a collision the direction is
1 at the carried marker, 0 above it, the old code's bit below it; a direction 0 is recorded as the new marker, a
direction 1 is not. At either level; what a Level C tick adds is `moved`: the model's choice (notes/assumptions/7.md and
9.md, DESIGN CHOICE). -/
def Obligations.PairDecidesTheDirection : Prop :=
  ∀ (s : State) (r : Byte), s.controllerMoves → s.res = [r] →
    (s.seq = .pop .readB1 → step s = .next (moved (fun u => { u with
      res := []
      rs := { u.rs with b1 := r.getLsbD 0 }
      seq := .push .readB2 }) s)) ∧
    (s.seq = .pop .readB2 → s.rs.b1 ≠ r.getLsbD 0 → step s = .next (moved (fun u => { u with
      res := []
      rs := { u.rs with b2 := r.getLsbD 0, dir := s.rs.b1 }
      seq := .push .writeDir }) s)) ∧
    (∀ dir : Bool, s.seq = .pop .readB2 → s.rs.b1 = false → r.getLsbD 0 = false → s.rs.i.toNat < 64 →
      (match s.rs.last with
        | none => dir = false
        | some m =>
          if s.rs.i.toNat = m.toNat then dir = true else if m.toNat < s.rs.i.toNat then dir = false
          else dir = s.rs.rom.getLsbD s.rs.i.toNat) →
      step s = .next (moved (fun u => { u with
        res := []
        rs := { u.rs with b2 := false, dir := dir, new := if dir then s.rs.new else some (BitVec.ofNat 6 s.rs.i.toNat) }
        seq := .push .writeDir }) s))

/-- R239, R240: the direction is written back as a 1-bit transfer; when its result has been popped, bit i of the code is
the direction, the other bits are as before and i moves on, at every position; before position 63 the next pair follows,
at 63 the loop over the positions ends.
The step at position 63 sets the framing, so ENGINE is in IDLE there (R373). At either level; what a Level C tick adds is
`moved`: the model's choice (notes/assumptions/7.md and 9.md, DESIGN CHOICE). -/
def Obligations.DirectionIsWrittenAndRecorded : Prop :=
  ∀ s : State, s.controllerMoves → 0 < s.par.fifoDepth →
    (s.seq = .push .writeDir → step s = .next (moved (fun u => { u with
      cmd := [if s.rs.dir then 0x001#9 else 0x000#9]
      seq := .pop .writeDir }) s)) ∧
    (∀ r, s.seq = .pop .writeDir → s.res = [r] → s.rs.i.toNat < 64 → (s.rs.i.toNat = 63 → s.eng.phase = .idle) →
      ∃ (code : RomCode) (t : State),
        (∀ n, n < 64 → code.getLsbD n = if n = s.rs.i.toNat then s.rs.dir else s.rs.rom.getLsbD n) ∧
        step s = .next t ∧ t.rs.rom = code ∧ t.rs.i.toNat = s.rs.i.toNat + 1 ∧
        (s.rs.i.toNat < 63 → t = moved (fun u => { u with
          res := []
          rs := { u.rs with rom := code, i := s.rs.i + 1 }
          seq := .push .readB1 }) s) ∧
        (s.rs.i.toNat = 63 → t.seq = .push .passReset ∨ t.seq = .hostIdle))

/-- R241, R242, R244, R326: when the direction of position 63 has been written, W = 8 is restored and the code is recorded
behind the earlier ones; without a new marker the operation ends; with one it goes on from it, unless the table is now
full, which raises TableFull and ends it. ENGINE is in IDLE, as SET_FRAMING needs (R373). At either level; what a Level C
tick adds is `moved`: the model's choice (notes/assumptions/7.md and 9.md, DESIGN CHOICE). -/
def Obligations.EndOfPassRecordsAndDecides : Prop :=
  ∀ (s : State) (r : Byte), s.controllerMoves → s.res = [r] → s.wf → s.seq = .pop .writeDir → s.rs.i = 63 →
    s.eng.phase = .idle →
    ∃ (code : RomCode) (last : Marker) (f : Flags) (q : Seq),
      (∀ n, n < 64 → code.getLsbD n = if n = 63 then s.rs.dir else s.rs.rom.getLsbD n) ∧
      step s = .next (moved (fun u => { u with
        res := []
        rs := { u.rs with rom := code, i := 64, last := last }
        framing := .w8
        eng := ⟨.idle, 0, 0, 0, 0, false, false⟩
        rom := s.rom.set s.romCount.toNat code
        romCount := BitVec.ofNat 7 (s.romCount.toNat + 1)
        flags := f
        seq := q }) s) ∧
      (s.rs.new = none → q = .hostIdle ∧ f = s.flags ∧ last = s.rs.last) ∧
      (s.rs.new ≠ none → s.romCount.toNat + 1 < s.par.nMax → q = .push .passReset ∧ f = s.flags ∧ last = s.rs.new) ∧
      (s.rs.new ≠ none → s.romCount.toNat + 1 = s.par.nMax →
        q = .hostIdle ∧ f = { s.flags with tableFull := true } ∧ last = s.rs.last)

/-! ### DeviceManager -/

/-- R261 step 1, R322: SAMPLE_ALL clears `RDG_COUNT` and makes a RESET; a failed one raises BusFault and returns, a low
sample goes on to address-all. R266: the result of the RESET before each device's read is recorded as presence and not
examined. At either level; what a Level C tick adds is `moved`: the model's choice (notes/assumptions/7.md and 9.md, DESIGN
CHOICE). -/
def Obligations.SampleAllResets : Prop :=
  (∀ s : State, s.controllerMoves → s.seq = .sampleStart → step s = .next (moved (fun u => { u with
    rdgCount := 0
    seq := .push .sampleReset }) s)) ∧
  (∀ (s : State) (r : Byte), s.controllerMoves → s.res = [r] →
    (s.seq = .pop .sampleReset → r.getLsbD 0 = true → step s = .next (moved (fun u => { u with
      res := []
      presence := false
      flags := { u.flags with busFault := true }
      seq := .hostIdle }) s)) ∧
    (s.seq = .pop .sampleReset → r.getLsbD 0 = false → step s = .next (moved (fun u => { u with
      res := []
      presence := true
      seq := .push .addrAll }) s)) ∧
    (s.seq = .pop .devReset → step s = .next (moved (fun u => { u with
      res := []
      presence := !r.getLsbD 0
      seq := .push .addrOne }) s)))

/-- R262 to R265, R325: after address-all comes start-conversion; when its result is popped the budget timer is loaded and
the poll begins, at either level. The poll is complete iff the byte is 0xFF; another byte with the budget spent raises
PollTimeout; both go on to the per-device reads; otherwise CONTROLLER loads the gap timer and waits, and it reads again only
when that timer is 0. The poll writes nothing else (R264): beside its own place and the model's count of reads only
`DM.gap_t`, and while CONTROLLER waits ENGINE makes its ticks and the timers count. R48 at Level C: at every tick without reset or REINIT a timer is loaded at its one place, else it is
one less, and stays at 0. The model's choices (DESIGN CHOICE): what `moved` adds at Level C (notes/assumptions/7.md and
9.md); at Level T the budget is a number of reads (U5, notes/assumptions/6.md) and the gap is over at once
(notes/assumptions/12.md); that the timers count in HOST_IDLE too is DEDUCED (notes/assumptions/32.md). -/
def Obligations.CompletionPollDecides : Prop :=
  (∀ (s : State) (r : Byte), s.controllerMoves → s.res = [r] →
    (s.seq = .pop .addrAll → step s = .next (moved (fun u => { u with
      res := []
      seq := .push .startConv }) s)) ∧
    (s.seq = .pop .startConv → step s = .next (moved (fun u => { u with
      res := []
      dm := { u.dm with pollT := BitVec.ofNat 20 s.par.tPollBudget }
      pollReads := 0
      seq := .push .pollRead }) s))) ∧
  (∀ (s : State) (r : Byte), s.controllerMoves → s.seq = .pop .pollRead → s.res = [r] →
    ∃ t, step s = .next t ∧ t.res = [] ∧
      (r = 0xFF#8 ∨ budgetSpent s = true →
        t.dm.k = 0 ∧ (s.romCount ≠ 0 → t.seq = .push .devReset ∧ t.rdgCount = s.rdgCount) ∧
        (s.romCount = 0 → t.seq = .hostIdle ∧ t.rdgCount = 0)) ∧
      (r = 0xFF#8 → t.flags = s.flags) ∧
      (r ≠ 0xFF#8 → budgetSpent s = true → t.flags = { s.flags with pollTimeout := true }) ∧
      (r ≠ 0xFF#8 → budgetSpent s = false → step s = .next (moved (fun u => { u with
        res := []
        dm := { u.dm with gapT := BitVec.ofNat 14 s.par.tPollGap }
        pollReads := s.pollReads + 1
        seq := .pollGap }) s))) ∧
  (∀ s : State, s.controllerMoves → s.seq = .pollGap →
    (s.level = .transaction ∨ s.dm.gapT = 0 → step s = .next (moved (fun u => { u with
      dm := { u.dm with gapT := 0 }
      seq := .push .pollRead }) s)) ∧
    (s.level = .cycle → s.dm.gapT ≠ 0 → step s = .next (showLine (engineAlone (tickTimers s))))) ∧
  (∀ s t : State, s.agentsMove → s.level = .cycle → (ctrlWritten s = true → ctrlOp s ≠ 3) → step s = .next t →
    (t.dm.pollT.toNat = s.dm.pollT.toNat - 1 ∨
      s.seq = .pop .startConv ∧ t.dm.pollT = BitVec.ofNat 20 s.par.tPollBudget) ∧
    (t.dm.gapT.toNat = s.dm.gapT.toNat - 1 ∨
      s.seq = .pop .pollRead ∧ t.dm.gapT = BitVec.ofNat 14 s.par.tPollGap))

/-- R269 to R271, R274, R324: when the ninth byte has been popped the CRC of the nine decides alone: 0 gives a TEMP
Reading with the decoded fields, another value an empty CRC_FAIL Reading and CrcMismatch; then the next device, or the end
of SAMPLE_ALL after the last one (R266, R275). At either level; what a Level C tick adds is `moved`: the model's choice
(notes/assumptions/7.md and 9.md, DESIGN CHOICE). That `DM.j` stands at 9 is the model's reading of the loop (DEDUCED,
notes/assumptions/16.md). -/
def Obligations.CrcAloneGatesTheReading : Prop :=
  ∀ (s : State) (r : Byte), s.controllerMoves → s.seq = .pop .spByte → s.res = [r] → s.dm.j = 8 →
    let sp := s.dm.sp.set 8 r
    step s = .next (moved (fun u => { u with
      res := []
      dm := { u.dm with sp := sp, j := 9, crc := crc8 sp, k := s.dm.k + 1 }
      rdg := s.rdg.set s.dm.k.toNat
        (if crc8 sp = 0#8 then { kind := .temp, resf := resField sp, t16 := rawTemp sp }
         else { kind := .crcFail, resf := 0, t16 := 0 })
      rdgCount := if s.dm.k + 1 = s.romCount then s.romCount else s.rdgCount
      flags := if crc8 sp = 0#8 then s.flags else { s.flags with crcMismatch := true }
      seq := if s.dm.k + 1 = s.romCount then .hostIdle else .push .devReset }) s)

/-- R261, R265 to R269, R275: when the byte that ends the poll is popped, the step passes READ_ALL and DEV: the device loop
starts with device 0, or `RDG_COUNT` takes a `ROM_COUNT` of 0 and the operation returns. Then each device is read: after
address-one the eight RomCode bytes, read-scratchpad, nine bytes into `DM.sp` in order. After the ninth byte the loop goes
on to the next device's RESET, or after the last one `RDG_COUNT` takes `ROM_COUNT` and the operation returns, with the ROM
table unchanged. At either level; what a Level C tick adds is `moved`: the model's choice (notes/assumptions/7.md and 9.md,
DESIGN CHOICE). `DM.j` after the eighth RomCode byte is DEDUCED (notes/assumptions/16.md). -/
def Obligations.SampleAllReturnsOneReadingPerCode : Prop :=
  ∀ (s : State) (r : Byte), s.controllerMoves → s.res = [r] →
    (s.seq = .pop .pollRead → r = 0xFF#8 ∨ budgetSpent s = true → step s = .next (moved (fun u => { u with
      res := []
      dm := { u.dm with k := 0 }
      flags := if r = 0xFF#8 then u.flags else { u.flags with pollTimeout := true }
      rdgCount := if s.romCount = 0 then 0 else s.rdgCount
      seq := if s.romCount = 0 then .hostIdle else .push .devReset }) s)) ∧
    (s.seq = .pop .addrOne → step s = .next (moved (fun u => { u with
      res := []
      dm := { u.dm with j := 0 }
      seq := .push .addrByte }) s)) ∧
    (s.seq = .pop .addrByte → s.dm.j.toNat < 8 → step s = .next (moved (fun u => { u with
      res := []
      dm := { u.dm with j := s.dm.j + 1 }
      seq := if s.dm.j.toNat = 7 then .push .readCmd else .push .addrByte }) s)) ∧
    (s.seq = .pop .readCmd → step s = .next (moved (fun u => { u with
      res := []
      dm := { u.dm with j := 0 }
      seq := .push .spByte }) s)) ∧
    (s.seq = .pop .spByte → s.dm.j.toNat < 8 → step s = .next (moved (fun u => { u with
      res := []
      dm := { u.dm with sp := s.dm.sp.set s.dm.j.toNat r, j := s.dm.j + 1 }
      seq := .push .spByte }) s)) ∧
    (s.seq = .pop .spByte → s.dm.j.toNat = 8 → ∃ t, step s = .next t ∧ t.rom = s.rom ∧ t.romCount = s.romCount ∧
      t.dm.k = s.dm.k + 1 ∧
      (s.dm.k + 1 = s.romCount → t.rdgCount = s.romCount ∧ t.seq = .hostIdle) ∧
      (s.dm.k + 1 ≠ s.romCount → t.rdgCount = s.rdgCount ∧ t.seq = .push .devReset))

/-! ### What every step keeps -/

/-- The ranges and sizes of R45, R46, R49 to R52, R87 and the precondition of R241 are kept by every step. -/
def Obligations.EveryStepKeepsRangesAndSizes : Prop :=
  ∀ s t : State, s.wf → step s = .next t → t.wf

/-- R178, R38, R37: the line is driven exactly in the phases RST_LOW, SL_LOW and SL_HOLD0, `ENG.nbit` stays below W
inside a slot, a timed phase has ticks left: kept by every step, at either level. The second part is what `ow_in` shows after
every step at Level C: 0 while the line is driven low (R31, R103), and otherwise, on the reference bus (G3,
notes/assumptions/17.md), the presence level in RST_WAIT and elsewhere, between slots too, the AND of what the devices
allow. That the port is shown so in RST_WAIT and between slots is the model's choice (notes/assumptions/9.md, DESIGN
CHOICE). -/
def Obligations.EveryStepKeepsTheLineReleasedOutsideAssertion : Prop :=
  (∀ s t : State, s.engineOk → step s = .next t → t.engineOk) ∧
  (∀ s t : State, s.level = .cycle → step s = .next t →
    (t.eng.drive = true → t.ports.owIn = false) ∧
    (∀ ds, t.bus = .reference ds → t.eng.drive = false →
      t.ports.owIn = if t.eng.phase = .rstWait then ds.isEmpty else ds.all (fun d => d.out)))

/-- R276 (a) to (c), at every place of the sequences: kept by every step. -/
def Obligations.EveryStepKeepsReadingsAndMismatchFlagTogether : Prop :=
  ∀ s t : State, s.wf → s.readingsOk → step s = .next t → t.readingsOk

/-- R329: only the possible flag sets occur; kept by every step. -/
def Obligations.EveryStepKeepsThePossibleFlagSets : Prop :=
  ∀ s t : State, s.flagsOk = true → step s = .next t → t.flagsOk = true

/-- R336, R373, R308, R87: from a state in which the agents stand to each other as in a run of the core's own
sequences, every step of every host and every bus answers a next state, never a fault or a refusal, and that state is
again such a state: no SET_FRAMING ever meets an ENGINE that is not quiescent. -/
def Obligations.NoHostAndNoBusCanStopTheCore : Prop :=
  ∀ s : State, s.flowOk → ∃ t, step s = .next t ∧ t.flowOk

/-- R61, R62, R63: right after reset every register has the value those rules give. That the five invariants hold there,
with the default parameters, Level T and a free bus, is about the model's reset state (notes/assumptions/8.md and 11.md). -/
def Obligations.ResetStateHasTheStatedValuesAndInvariants : Prop :=
  State.reset.atReset ∧ State.reset.wf ∧ State.reset.engineOk ∧ State.reset.readingsOk ∧ State.reset.flagsOk = true ∧
    State.reset.flowOk

/-- R321 (b), (c): a fault flag stays set until an accepted DISCOVER or SAMPLE_ALL, REINIT or reset; an accepted command
or REINIT clears all five in its step. -/
def Obligations.FlagsAreStickyUntilCleared : Prop :=
  ∀ s t : State, s.agentsMove → step s = .next t →
    (clearsFlags s = false → ∀ f : FaultFlag, s.flags.get f = true → t.flags.get f = true) ∧
    (clearsFlags s = true → ∀ f : FaultFlag, t.flags.get f = false)

/-- R49, R50, R260, R276 (d): the ROM table changes at two places only: the start of a search empties it and the end of a
pass adds one code, the one under construction, behind the others. R39, R233, R235, R243: FRAMING changes only after the
search command, at the pair (1,1) and after position 63. -/
def Obligations.TableAndFramingChangeOnlyAtTheirPlaces : Prop :=
  ∀ s t : State, s.agentsMove → (ctrlWritten s = true → ctrlOp s ≠ 3) → step s = .next t →
    ((t.rom = s.rom ∧ t.romCount = s.romCount) ∨
      ((s.seq = .discoverStart ∨ s.seq = .searchStart) ∧ t.rom = s.rom ∧ t.romCount = 0) ∨
      (s.seq = .pop .writeDir ∧ 64 ≤ (s.rs.i + 1).toNat ∧ t.rom = s.rom.set s.romCount.toNat t.rs.rom ∧
        t.romCount = s.romCount + 1)) ∧
    (t.framing = s.framing ∨ (s.seq = .pop .searchCmd ∧ t.framing = .w1) ∨
      (((s.seq = .pop .readB2 ∧ s.rs.b1 = true ∧ t.flags.searchFault = true) ∨
        (s.seq = .pop .writeDir ∧ 64 ≤ (s.rs.i + 1).toNat)) ∧ t.framing = .w8))

/-! ### Level C refines Level T; whole operations -/

/-- R206, R160: with a silent host, the three steps of CONTROLLER's push, ENGINE's element and CONTROLLER's pop are
BusController's one operation: the element of the place goes through ENGINE and its result is used at once, with the
SET_FRAMING that follows it where there is one. R123 to R128, R200 to R204, R267: the element pushed at each place, at either
level; what a Level C tick adds is `moved`: the model's choice (notes/assumptions/7.md and 9.md, DESIGN CHOICE). -/
def Obligations.ThreeStepsAreOneBusOperation : Prop :=
  (∀ (s : State) (p : Place) (code : RomCode), s.controllerMoves → 0 < s.par.fifoDepth → s.seq = .push p →
    (p = .addrByte → s.rom[s.dm.k.toNat]? = some code) →
    step s = .next (moved (fun u => { u with
      cmd := [match p with
        | .passReset | .sampleReset | .devReset => 0x100#9
        | .searchCmd => 0x0F0#9
        | .readB1 | .readB2 => 0x001#9
        | .writeDir => if s.rs.dir then 0x001#9 else 0x000#9
        | .addrAll => 0x0CC#9
        | .startConv => 0x044#9
        | .pollRead | .spByte => 0x0FF#9
        | .addrOne => 0x055#9
        | .addrByte => (code.extractLsb' (8 * s.dm.j.toNat) 8).setWidth 9
        | .readCmd => 0x0BE#9]
      seq := .pop p }) s)) ∧
  (∀ (s u : State) (p : Place) (r : Byte), s.controllerTurn → s.res = [] → 0 < s.par.fifoDepth → s.seq = .push p →
    transact (placeElem p s) s = some (u, r) →
    run 3 s = .next (match popFraming p r u with
      | none => afterPop (pollExhausted s) p r u
      | some w => engineReinit w (afterPop (pollExhausted s) p r u)))

/-- R179 (a): at Level C an element with RST = 1 drives the line low for exactly `T_RSTL` ticks from its pop, delivers
the Level T result after `T_PDS` more and its push tick, and after `T_RSTREC` more ENGINE is in IDLE; all it changes is
what the Level T step changes and ENGINE's own registers. R36: `ENG.isr` is 0 from the pop to the
sample (R36 taken beside R166's list: DEDUCED, notes/assumptions/30.md). R58: BusState is Resetting until then. An E.RESET of
the test harness at Level C leaves exactly the state that these ticks leave at the push (notes/assumptions/4.md). -/
def Obligations.TickedResetRefinesTheAtomicOne : Prop :=
  ∀ (s : State) (e : Elem) (rest : List Elem), s.par.wf → s.eng.phase = .idle → s.cmd = e :: rest →
    e.getLsbD 8 = true → s.res.length < s.par.fifoDepth →
    (∀ n, n < s.par.tRstl + s.par.tPds + s.par.tRstrec + 2 →
      (engineTicks (n + 1) s).eng.drive = decide (n < s.par.tRstl)) ∧
    (∀ n, n < s.par.tRstl + s.par.tPds → (engineTicks (n + 1) s).eng.isr = 0) ∧
    (∀ n, n + 1 < s.par.tRstl + s.par.tPds + s.par.tRstrec + 2 →
      busState (engineTicks (n + 1) s).eng.phase = .resetting) ∧
    (∃ g, g.phase = .rstRec ∧
      engineTicks (s.par.tRstl + s.par.tPds + 2) s = setEngine g (performElem e { s with cmd := rest })) ∧
    (∃ g, g.phase = .idle ∧ engineTicks (s.par.tRstl + s.par.tPds + s.par.tRstrec + 2) s =
      setEngine g (performElem e { s with cmd := rest })) ∧
    (s.level = .cycle → engineTicks (s.par.tRstl + s.par.tPds + 2) s = performElem e { s with cmd := rest })

/-- R179 (b): at Level C slot k of a transfer starts `k·(T_SLOT + T_REC)` ticks after the pop and drives the line low for
`T_LOW` ticks if bit k of the data is 1 and for `T_SLOT` ticks if it is 0, and at no other tick; the Level T result is
delivered `W·(T_SLOT + T_REC) + 1` ticks after the pop, with ENGINE in IDLE; all it changes is what the Level T step
changes and ENGINE's own registers. R36: the pop clears `ENG.isr`. R58: BusState is Transmitting/Receiving until then.
A transfer of the test harness at Level C leaves exactly the state that these ticks leave (notes/assumptions/4.md). -/
def Obligations.TickedTransferRefinesTheAtomicOne : Prop :=
  ∀ (s : State) (e : Elem) (rest : List Elem), s.par.wf → s.eng.phase = .idle → s.cmd = e :: rest →
    e.getLsbD 8 = false → s.res.length < s.par.fifoDepth →
    (∀ n, n < s.framing.width * (s.par.tSlot + s.par.tRec) + 2 →
      (engineTicks (n + 1) s).eng.drive =
        (decide (n < s.framing.width * (s.par.tSlot + s.par.tRec)) &&
          decide (n % (s.par.tSlot + s.par.tRec) <
            if e.getLsbD (n / (s.par.tSlot + s.par.tRec)) then s.par.tLow else s.par.tSlot))) ∧
    (engineTicks 1 s).eng.isr = 0 ∧
    (∀ n, n + 1 < s.framing.width * (s.par.tSlot + s.par.tRec) + 2 →
      busState (engineTicks (n + 1) s).eng.phase = .transferring) ∧
    (∃ g, g.phase = .idle ∧ engineTicks (s.framing.width * (s.par.tSlot + s.par.tRec) + 2) s =
      setEngine g (performElem e { s with cmd := rest })) ∧
    (s.level = .cycle →
      engineTicks (s.framing.width * (s.par.tSlot + s.par.tRec) + 2) s = performElem e { s with cmd := rest })

/-- R245, R308: at Level T with a silent host a DISCOVER ends, on every bus, noisy or stuck, after at most `N_MAX`
passes. The bound counts the model's own steps (notes/assumptions/3.md and 26.md, DESIGN CHOICE). -/
def Obligations.DiscoverEndsOnEveryBus : Prop :=
  ∀ s : State, s.wf → s.flowOk → s.level = .transaction → s.hostQuiet → s.seq = .discoverStart →
    ∃ n t, n ≤ 1 + 582 * s.par.nMax ∧ run n s = .next t ∧ t.seq = .hostIdle ∧ t.cmd = [] ∧ t.res = [] ∧ t.framing = .w8

/-- R308, R303: at Level T with a silent host a SAMPLE_ALL ends on every bus, with either no Reading or one for each
code. The bound counts the model's own steps (notes/assumptions/3.md and 26.md, DESIGN CHOICE), and the bound on the poll
reads is the parameter of U5 (notes/assumptions/6.md). -/
def Obligations.SampleAllEndsOnEveryBus : Prop :=
  ∀ s : State, s.wf → s.flowOk → s.level = .transaction → s.hostQuiet → s.seq = .sampleStart →
    ∃ n t, n ≤ 10 + 4 * s.par.pollMaxReads + 60 * s.romCount.toNat ∧ run n s = .next t ∧ t.seq = .hostIdle ∧
      t.rom = s.rom ∧ t.romCount = s.romCount ∧ (t.rdgCount = 0 ∨ t.rdgCount = s.romCount) ∧
      (t.flags.busFault = false → t.rdgCount = s.romCount)

/-- R246 for n = 0 and n = 1, on the reference bus, whose devices are the spec's general knowledge (G3;
notes/assumptions/17.md): an empty bus ends with no code and BusFault alone, after one RESET, four of the model's steps; one
device ends with exactly its RomCode, with no marker set and no flag, after the 582 steps of a single pass and the one
before it (the model's own steps: notes/assumptions/3.md and 26.md, DESIGN CHOICE). -/
def Obligations.DiscoverOnNoneOrOneDevice : Prop :=
  ∀ s : State, s.wf → s.flowOk → s.level = .transaction → s.hostQuiet → s.seq = .discoverStart → s.flags = .clear →
    (s.bus = .reference [] → ∃ t, run 4 s = .next t ∧ t.seq = .hostIdle ∧ t.romCount = 0 ∧ t.rdgCount = 0 ∧
      t.presence = false ∧ t.flags = { Flags.clear with busFault := true }) ∧
    (∀ d, s.bus = .reference [d] → ∃ t, run 583 s = .next t ∧ t.seq = .hostIdle ∧ t.romCount = 1 ∧
      t.rom[0]? = some d.rom ∧ t.rdgCount = 0 ∧ t.presence = true ∧ t.rs.new = none ∧ t.flags = .clear)

/-- R261 to R275 on a reference bus with the one device that the table names, whose conversion ends within the poll
bound: the operation returns one Reading, decided by the CRC of the device's nine bytes alone. The reference bus is the
spec's general knowledge (G3; notes/assumptions/17.md), the poll bound the parameter of U5 (notes/assumptions/6.md). -/
def Obligations.SampleAllReadsTheDevice : Prop :=
  ∀ (s : State) (d : Device), s.wf → s.flowOk → s.level = .transaction → s.hostQuiet → s.seq = .sampleStart →
    s.flags = .clear → s.bus = .reference [d] → d.sp.length = 9 → s.romCount = 1 → s.rom[0]? = some d.rom →
    d.conv ≤ 8 * (s.par.pollMaxReads - 1) →
    ∃ n t, run n s = .next t ∧ t.seq = .hostIdle ∧ t.rdgCount = 1 ∧ t.dm.sp = d.sp ∧
      t.rdg[0]? = some (if crc8 d.sp = 0#8 then { kind := .temp, resf := resField d.sp, t16 := rawTemp d.sp }
        else { kind := .crcFail, resf := 0, t16 := 0 }) ∧
      t.flags = { Flags.clear with crcMismatch := crc8 d.sp != 0#8 }
end

