-- ==== Sys2Proof/Laws/State.lean ====
section
/-! SUPPORT. What each named update of State changes and what it leaves: one lemma per field per update. -/

namespace Sys2Proof.Machine

/-! ### setBus -/

@[simp] theorem setBus_ports (b : BusAgent) (d : Nat) (o : Bool) (s : State) : (setBus b d o s).ports = { s.ports with owIn := o } := rfl
@[simp] theorem setBus_eng (b : BusAgent) (d : Nat) (o : Bool) (s : State) : (setBus b d o s).eng = s.eng := rfl
@[simp] theorem setBus_framing (b : BusAgent) (d : Nat) (o : Bool) (s : State) : (setBus b d o s).framing = s.framing := rfl
@[simp] theorem setBus_cmd (b : BusAgent) (d : Nat) (o : Bool) (s : State) : (setBus b d o s).cmd = s.cmd := rfl
@[simp] theorem setBus_res (b : BusAgent) (d : Nat) (o : Bool) (s : State) : (setBus b d o s).res = s.res := rfl
@[simp] theorem setBus_presence (b : BusAgent) (d : Nat) (o : Bool) (s : State) : (setBus b d o s).presence = s.presence := rfl
@[simp] theorem setBus_rs (b : BusAgent) (d : Nat) (o : Bool) (s : State) : (setBus b d o s).rs = s.rs := rfl
@[simp] theorem setBus_dm (b : BusAgent) (d : Nat) (o : Bool) (s : State) : (setBus b d o s).dm = s.dm := rfl
@[simp] theorem setBus_seq (b : BusAgent) (d : Nat) (o : Bool) (s : State) : (setBus b d o s).seq = s.seq := rfl
@[simp] theorem setBus_rom (b : BusAgent) (d : Nat) (o : Bool) (s : State) : (setBus b d o s).rom = s.rom := rfl
@[simp] theorem setBus_romCount (b : BusAgent) (d : Nat) (o : Bool) (s : State) : (setBus b d o s).romCount = s.romCount := rfl
@[simp] theorem setBus_rdg (b : BusAgent) (d : Nat) (o : Bool) (s : State) : (setBus b d o s).rdg = s.rdg := rfl
@[simp] theorem setBus_rdgCount (b : BusAgent) (d : Nat) (o : Bool) (s : State) : (setBus b d o s).rdgCount = s.rdgCount := rfl
@[simp] theorem setBus_flags (b : BusAgent) (d : Nat) (o : Bool) (s : State) : (setBus b d o s).flags = s.flags := rfl
@[simp] theorem setBus_par (b : BusAgent) (d : Nat) (o : Bool) (s : State) : (setBus b d o s).par = s.par := rfl
@[simp] theorem setBus_level (b : BusAgent) (d : Nat) (o : Bool) (s : State) : (setBus b d o s).level = s.level := rfl
@[simp] theorem setBus_bus (b : BusAgent) (d : Nat) (o : Bool) (s : State) : (setBus b d o s).bus = b := rfl
@[simp] theorem setBus_inbox (b : BusAgent) (d : Nat) (o : Bool) (s : State) : (setBus b d o s).inbox = s.inbox := rfl
@[simp] theorem setBus_issue (b : BusAgent) (d : Nat) (o : Bool) (s : State) : (setBus b d o s).issue = s.issue := rfl
@[simp] theorem setBus_ret (b : BusAgent) (d : Nat) (o : Bool) (s : State) : (setBus b d o s).ret = s.ret := rfl
@[simp] theorem setBus_pollReads (b : BusAgent) (d : Nat) (o : Bool) (s : State) : (setBus b d o s).pollReads = s.pollReads := rfl
@[simp] theorem setBus_ctlWait (b : BusAgent) (d : Nat) (o : Bool) (s : State) : (setBus b d o s).ctlWait = s.ctlWait := rfl
@[simp] theorem setBus_draws (b : BusAgent) (d : Nat) (o : Bool) (s : State) : (setBus b d o s).draws = d := rfl

/-! ### pushCmd -/

@[simp] theorem pushCmd_ports (e : Elem) (s : State) : (pushCmd e s).ports = s.ports := rfl
@[simp] theorem pushCmd_eng (e : Elem) (s : State) : (pushCmd e s).eng = s.eng := rfl
@[simp] theorem pushCmd_framing (e : Elem) (s : State) : (pushCmd e s).framing = s.framing := rfl
@[simp] theorem pushCmd_cmd (e : Elem) (s : State) : (pushCmd e s).cmd = s.cmd ++ [e] := rfl
@[simp] theorem pushCmd_res (e : Elem) (s : State) : (pushCmd e s).res = s.res := rfl
@[simp] theorem pushCmd_presence (e : Elem) (s : State) : (pushCmd e s).presence = s.presence := rfl
@[simp] theorem pushCmd_rs (e : Elem) (s : State) : (pushCmd e s).rs = s.rs := rfl
@[simp] theorem pushCmd_dm (e : Elem) (s : State) : (pushCmd e s).dm = s.dm := rfl
@[simp] theorem pushCmd_seq (e : Elem) (s : State) : (pushCmd e s).seq = s.seq := rfl
@[simp] theorem pushCmd_rom (e : Elem) (s : State) : (pushCmd e s).rom = s.rom := rfl
@[simp] theorem pushCmd_romCount (e : Elem) (s : State) : (pushCmd e s).romCount = s.romCount := rfl
@[simp] theorem pushCmd_rdg (e : Elem) (s : State) : (pushCmd e s).rdg = s.rdg := rfl
@[simp] theorem pushCmd_rdgCount (e : Elem) (s : State) : (pushCmd e s).rdgCount = s.rdgCount := rfl
@[simp] theorem pushCmd_flags (e : Elem) (s : State) : (pushCmd e s).flags = s.flags := rfl
@[simp] theorem pushCmd_par (e : Elem) (s : State) : (pushCmd e s).par = s.par := rfl
@[simp] theorem pushCmd_level (e : Elem) (s : State) : (pushCmd e s).level = s.level := rfl
@[simp] theorem pushCmd_bus (e : Elem) (s : State) : (pushCmd e s).bus = s.bus := rfl
@[simp] theorem pushCmd_inbox (e : Elem) (s : State) : (pushCmd e s).inbox = s.inbox := rfl
@[simp] theorem pushCmd_issue (e : Elem) (s : State) : (pushCmd e s).issue = s.issue := rfl
@[simp] theorem pushCmd_ret (e : Elem) (s : State) : (pushCmd e s).ret = s.ret := rfl
@[simp] theorem pushCmd_pollReads (e : Elem) (s : State) : (pushCmd e s).pollReads = s.pollReads := rfl
@[simp] theorem pushCmd_ctlWait (e : Elem) (s : State) : (pushCmd e s).ctlWait = s.ctlWait := rfl
@[simp] theorem pushCmd_draws (e : Elem) (s : State) : (pushCmd e s).draws = s.draws := rfl

/-! ### pushRes -/

@[simp] theorem pushRes_ports (r : Byte) (s : State) : (pushRes r s).ports = s.ports := rfl
@[simp] theorem pushRes_eng (r : Byte) (s : State) : (pushRes r s).eng = s.eng := rfl
@[simp] theorem pushRes_framing (r : Byte) (s : State) : (pushRes r s).framing = s.framing := rfl
@[simp] theorem pushRes_cmd (r : Byte) (s : State) : (pushRes r s).cmd = s.cmd := rfl
@[simp] theorem pushRes_res (r : Byte) (s : State) : (pushRes r s).res = s.res ++ [r] := rfl
@[simp] theorem pushRes_presence (r : Byte) (s : State) : (pushRes r s).presence = s.presence := rfl
@[simp] theorem pushRes_rs (r : Byte) (s : State) : (pushRes r s).rs = s.rs := rfl
@[simp] theorem pushRes_dm (r : Byte) (s : State) : (pushRes r s).dm = s.dm := rfl
@[simp] theorem pushRes_seq (r : Byte) (s : State) : (pushRes r s).seq = s.seq := rfl
@[simp] theorem pushRes_rom (r : Byte) (s : State) : (pushRes r s).rom = s.rom := rfl
@[simp] theorem pushRes_romCount (r : Byte) (s : State) : (pushRes r s).romCount = s.romCount := rfl
@[simp] theorem pushRes_rdg (r : Byte) (s : State) : (pushRes r s).rdg = s.rdg := rfl
@[simp] theorem pushRes_rdgCount (r : Byte) (s : State) : (pushRes r s).rdgCount = s.rdgCount := rfl
@[simp] theorem pushRes_flags (r : Byte) (s : State) : (pushRes r s).flags = s.flags := rfl
@[simp] theorem pushRes_par (r : Byte) (s : State) : (pushRes r s).par = s.par := rfl
@[simp] theorem pushRes_level (r : Byte) (s : State) : (pushRes r s).level = s.level := rfl
@[simp] theorem pushRes_bus (r : Byte) (s : State) : (pushRes r s).bus = s.bus := rfl
@[simp] theorem pushRes_inbox (r : Byte) (s : State) : (pushRes r s).inbox = s.inbox := rfl
@[simp] theorem pushRes_issue (r : Byte) (s : State) : (pushRes r s).issue = s.issue := rfl
@[simp] theorem pushRes_ret (r : Byte) (s : State) : (pushRes r s).ret = s.ret := rfl
@[simp] theorem pushRes_pollReads (r : Byte) (s : State) : (pushRes r s).pollReads = s.pollReads := rfl
@[simp] theorem pushRes_ctlWait (r : Byte) (s : State) : (pushRes r s).ctlWait = s.ctlWait := rfl
@[simp] theorem pushRes_draws (r : Byte) (s : State) : (pushRes r s).draws = s.draws := rfl

/-! ### setEngine -/

@[simp] theorem setEngine_ports (e : Engine) (s : State) : (setEngine e s).ports = s.ports := rfl
@[simp] theorem setEngine_eng (e : Engine) (s : State) : (setEngine e s).eng = e := rfl
@[simp] theorem setEngine_framing (e : Engine) (s : State) : (setEngine e s).framing = s.framing := rfl
@[simp] theorem setEngine_cmd (e : Engine) (s : State) : (setEngine e s).cmd = s.cmd := rfl
@[simp] theorem setEngine_res (e : Engine) (s : State) : (setEngine e s).res = s.res := rfl
@[simp] theorem setEngine_presence (e : Engine) (s : State) : (setEngine e s).presence = s.presence := rfl
@[simp] theorem setEngine_rs (e : Engine) (s : State) : (setEngine e s).rs = s.rs := rfl
@[simp] theorem setEngine_dm (e : Engine) (s : State) : (setEngine e s).dm = s.dm := rfl
@[simp] theorem setEngine_seq (e : Engine) (s : State) : (setEngine e s).seq = s.seq := rfl
@[simp] theorem setEngine_rom (e : Engine) (s : State) : (setEngine e s).rom = s.rom := rfl
@[simp] theorem setEngine_romCount (e : Engine) (s : State) : (setEngine e s).romCount = s.romCount := rfl
@[simp] theorem setEngine_rdg (e : Engine) (s : State) : (setEngine e s).rdg = s.rdg := rfl
@[simp] theorem setEngine_rdgCount (e : Engine) (s : State) : (setEngine e s).rdgCount = s.rdgCount := rfl
@[simp] theorem setEngine_flags (e : Engine) (s : State) : (setEngine e s).flags = s.flags := rfl
@[simp] theorem setEngine_par (e : Engine) (s : State) : (setEngine e s).par = s.par := rfl
@[simp] theorem setEngine_level (e : Engine) (s : State) : (setEngine e s).level = s.level := rfl
@[simp] theorem setEngine_bus (e : Engine) (s : State) : (setEngine e s).bus = s.bus := rfl
@[simp] theorem setEngine_inbox (e : Engine) (s : State) : (setEngine e s).inbox = s.inbox := rfl
@[simp] theorem setEngine_issue (e : Engine) (s : State) : (setEngine e s).issue = s.issue := rfl
@[simp] theorem setEngine_ret (e : Engine) (s : State) : (setEngine e s).ret = s.ret := rfl
@[simp] theorem setEngine_pollReads (e : Engine) (s : State) : (setEngine e s).pollReads = s.pollReads := rfl
@[simp] theorem setEngine_ctlWait (e : Engine) (s : State) : (setEngine e s).ctlWait = s.ctlWait := rfl
@[simp] theorem setEngine_draws (e : Engine) (s : State) : (setEngine e s).draws = s.draws := rfl

/-! ### raiseFault -/

@[simp] theorem raiseFault_ports (f : FaultFlag) (s : State) : (raiseFault f s).ports = s.ports := rfl
@[simp] theorem raiseFault_eng (f : FaultFlag) (s : State) : (raiseFault f s).eng = s.eng := rfl
@[simp] theorem raiseFault_framing (f : FaultFlag) (s : State) : (raiseFault f s).framing = s.framing := rfl
@[simp] theorem raiseFault_cmd (f : FaultFlag) (s : State) : (raiseFault f s).cmd = s.cmd := rfl
@[simp] theorem raiseFault_res (f : FaultFlag) (s : State) : (raiseFault f s).res = s.res := rfl
@[simp] theorem raiseFault_presence (f : FaultFlag) (s : State) : (raiseFault f s).presence = s.presence := rfl
@[simp] theorem raiseFault_rs (f : FaultFlag) (s : State) : (raiseFault f s).rs = s.rs := rfl
@[simp] theorem raiseFault_dm (f : FaultFlag) (s : State) : (raiseFault f s).dm = s.dm := rfl
@[simp] theorem raiseFault_seq (f : FaultFlag) (s : State) : (raiseFault f s).seq = s.seq := rfl
@[simp] theorem raiseFault_rom (f : FaultFlag) (s : State) : (raiseFault f s).rom = s.rom := rfl
@[simp] theorem raiseFault_romCount (f : FaultFlag) (s : State) : (raiseFault f s).romCount = s.romCount := rfl
@[simp] theorem raiseFault_rdg (f : FaultFlag) (s : State) : (raiseFault f s).rdg = s.rdg := rfl
@[simp] theorem raiseFault_rdgCount (f : FaultFlag) (s : State) : (raiseFault f s).rdgCount = s.rdgCount := rfl
@[simp] theorem raiseFault_flags (f : FaultFlag) (s : State) : (raiseFault f s).flags = s.flags.set f := rfl
@[simp] theorem raiseFault_par (f : FaultFlag) (s : State) : (raiseFault f s).par = s.par := rfl
@[simp] theorem raiseFault_level (f : FaultFlag) (s : State) : (raiseFault f s).level = s.level := rfl
@[simp] theorem raiseFault_bus (f : FaultFlag) (s : State) : (raiseFault f s).bus = s.bus := rfl
@[simp] theorem raiseFault_inbox (f : FaultFlag) (s : State) : (raiseFault f s).inbox = s.inbox := rfl
@[simp] theorem raiseFault_issue (f : FaultFlag) (s : State) : (raiseFault f s).issue = s.issue := rfl
@[simp] theorem raiseFault_ret (f : FaultFlag) (s : State) : (raiseFault f s).ret = s.ret := rfl
@[simp] theorem raiseFault_pollReads (f : FaultFlag) (s : State) : (raiseFault f s).pollReads = s.pollReads := rfl
@[simp] theorem raiseFault_ctlWait (f : FaultFlag) (s : State) : (raiseFault f s).ctlWait = s.ctlWait := rfl
@[simp] theorem raiseFault_draws (f : FaultFlag) (s : State) : (raiseFault f s).draws = s.draws := rfl

/-! ### raiseIf -/

@[simp] theorem raiseIf_ports (c : Bool) (f : FaultFlag) (s : State) : (raiseIf c f s).ports = s.ports := rfl
@[simp] theorem raiseIf_eng (c : Bool) (f : FaultFlag) (s : State) : (raiseIf c f s).eng = s.eng := rfl
@[simp] theorem raiseIf_framing (c : Bool) (f : FaultFlag) (s : State) : (raiseIf c f s).framing = s.framing := rfl
@[simp] theorem raiseIf_cmd (c : Bool) (f : FaultFlag) (s : State) : (raiseIf c f s).cmd = s.cmd := rfl
@[simp] theorem raiseIf_res (c : Bool) (f : FaultFlag) (s : State) : (raiseIf c f s).res = s.res := rfl
@[simp] theorem raiseIf_presence (c : Bool) (f : FaultFlag) (s : State) : (raiseIf c f s).presence = s.presence := rfl
@[simp] theorem raiseIf_rs (c : Bool) (f : FaultFlag) (s : State) : (raiseIf c f s).rs = s.rs := rfl
@[simp] theorem raiseIf_dm (c : Bool) (f : FaultFlag) (s : State) : (raiseIf c f s).dm = s.dm := rfl
@[simp] theorem raiseIf_seq (c : Bool) (f : FaultFlag) (s : State) : (raiseIf c f s).seq = s.seq := rfl
@[simp] theorem raiseIf_rom (c : Bool) (f : FaultFlag) (s : State) : (raiseIf c f s).rom = s.rom := rfl
@[simp] theorem raiseIf_romCount (c : Bool) (f : FaultFlag) (s : State) : (raiseIf c f s).romCount = s.romCount := rfl
@[simp] theorem raiseIf_rdg (c : Bool) (f : FaultFlag) (s : State) : (raiseIf c f s).rdg = s.rdg := rfl
@[simp] theorem raiseIf_rdgCount (c : Bool) (f : FaultFlag) (s : State) : (raiseIf c f s).rdgCount = s.rdgCount := rfl
@[simp] theorem raiseIf_par (c : Bool) (f : FaultFlag) (s : State) : (raiseIf c f s).par = s.par := rfl
@[simp] theorem raiseIf_level (c : Bool) (f : FaultFlag) (s : State) : (raiseIf c f s).level = s.level := rfl
@[simp] theorem raiseIf_bus (c : Bool) (f : FaultFlag) (s : State) : (raiseIf c f s).bus = s.bus := rfl
@[simp] theorem raiseIf_inbox (c : Bool) (f : FaultFlag) (s : State) : (raiseIf c f s).inbox = s.inbox := rfl
@[simp] theorem raiseIf_issue (c : Bool) (f : FaultFlag) (s : State) : (raiseIf c f s).issue = s.issue := rfl
@[simp] theorem raiseIf_ret (c : Bool) (f : FaultFlag) (s : State) : (raiseIf c f s).ret = s.ret := rfl
@[simp] theorem raiseIf_pollReads (c : Bool) (f : FaultFlag) (s : State) : (raiseIf c f s).pollReads = s.pollReads := rfl
@[simp] theorem raiseIf_ctlWait (c : Bool) (f : FaultFlag) (s : State) : (raiseIf c f s).ctlWait = s.ctlWait := rfl
@[simp] theorem raiseIf_draws (c : Bool) (f : FaultFlag) (s : State) : (raiseIf c f s).draws = s.draws := rfl
@[simp] theorem raiseIf_flags (c : Bool) (f : FaultFlag) (s : State) :
    (raiseIf c f s).flags = if c then s.flags.set f else s.flags := rfl

/-! ### setChannels -/

@[simp] theorem setChannels_ports (g : Engine) (b : BusAgent) (d : Nat) (o : Bool) (c : List Elem) (q : List Byte) (s : State) :
    (setChannels g b d o c q s).ports = { s.ports with owIn := o } := rfl
@[simp] theorem setChannels_eng (g : Engine) (b : BusAgent) (d : Nat) (o : Bool) (c : List Elem) (q : List Byte) (s : State) :
    (setChannels g b d o c q s).eng = g := rfl
@[simp] theorem setChannels_framing (g : Engine) (b : BusAgent) (d : Nat) (o : Bool) (c : List Elem) (q : List Byte) (s : State) :
    (setChannels g b d o c q s).framing = s.framing := rfl
@[simp] theorem setChannels_cmd (g : Engine) (b : BusAgent) (d : Nat) (o : Bool) (c : List Elem) (q : List Byte) (s : State) :
    (setChannels g b d o c q s).cmd = c := rfl
@[simp] theorem setChannels_res (g : Engine) (b : BusAgent) (d : Nat) (o : Bool) (c : List Elem) (q : List Byte) (s : State) :
    (setChannels g b d o c q s).res = q := rfl
@[simp] theorem setChannels_presence (g : Engine) (b : BusAgent) (d : Nat) (o : Bool) (c : List Elem) (q : List Byte) (s : State) :
    (setChannels g b d o c q s).presence = s.presence := rfl
@[simp] theorem setChannels_rs (g : Engine) (b : BusAgent) (d : Nat) (o : Bool) (c : List Elem) (q : List Byte) (s : State) :
    (setChannels g b d o c q s).rs = s.rs := rfl
@[simp] theorem setChannels_dm (g : Engine) (b : BusAgent) (d : Nat) (o : Bool) (c : List Elem) (q : List Byte) (s : State) :
    (setChannels g b d o c q s).dm = s.dm := rfl
@[simp] theorem setChannels_seq (g : Engine) (b : BusAgent) (d : Nat) (o : Bool) (c : List Elem) (q : List Byte) (s : State) :
    (setChannels g b d o c q s).seq = s.seq := rfl
@[simp] theorem setChannels_rom (g : Engine) (b : BusAgent) (d : Nat) (o : Bool) (c : List Elem) (q : List Byte) (s : State) :
    (setChannels g b d o c q s).rom = s.rom := rfl
@[simp] theorem setChannels_romCount (g : Engine) (b : BusAgent) (d : Nat) (o : Bool) (c : List Elem) (q : List Byte) (s : State) :
    (setChannels g b d o c q s).romCount = s.romCount := rfl
@[simp] theorem setChannels_rdg (g : Engine) (b : BusAgent) (d : Nat) (o : Bool) (c : List Elem) (q : List Byte) (s : State) :
    (setChannels g b d o c q s).rdg = s.rdg := rfl
@[simp] theorem setChannels_rdgCount (g : Engine) (b : BusAgent) (d : Nat) (o : Bool) (c : List Elem) (q : List Byte) (s : State) :
    (setChannels g b d o c q s).rdgCount = s.rdgCount := rfl
@[simp] theorem setChannels_flags (g : Engine) (b : BusAgent) (d : Nat) (o : Bool) (c : List Elem) (q : List Byte) (s : State) :
    (setChannels g b d o c q s).flags = s.flags := rfl
@[simp] theorem setChannels_par (g : Engine) (b : BusAgent) (d : Nat) (o : Bool) (c : List Elem) (q : List Byte) (s : State) :
    (setChannels g b d o c q s).par = s.par := rfl
@[simp] theorem setChannels_level (g : Engine) (b : BusAgent) (d : Nat) (o : Bool) (c : List Elem) (q : List Byte) (s : State) :
    (setChannels g b d o c q s).level = s.level := rfl
@[simp] theorem setChannels_bus (g : Engine) (b : BusAgent) (d : Nat) (o : Bool) (c : List Elem) (q : List Byte) (s : State) :
    (setChannels g b d o c q s).bus = b := rfl
@[simp] theorem setChannels_inbox (g : Engine) (b : BusAgent) (d : Nat) (o : Bool) (c : List Elem) (q : List Byte) (s : State) :
    (setChannels g b d o c q s).inbox = s.inbox := rfl
@[simp] theorem setChannels_issue (g : Engine) (b : BusAgent) (d : Nat) (o : Bool) (c : List Elem) (q : List Byte) (s : State) :
    (setChannels g b d o c q s).issue = s.issue := rfl
@[simp] theorem setChannels_ret (g : Engine) (b : BusAgent) (d : Nat) (o : Bool) (c : List Elem) (q : List Byte) (s : State) :
    (setChannels g b d o c q s).ret = s.ret := rfl
@[simp] theorem setChannels_pollReads (g : Engine) (b : BusAgent) (d : Nat) (o : Bool) (c : List Elem) (q : List Byte) (s : State) :
    (setChannels g b d o c q s).pollReads = s.pollReads := rfl
@[simp] theorem setChannels_ctlWait (g : Engine) (b : BusAgent) (d : Nat) (o : Bool) (c : List Elem) (q : List Byte) (s : State) :
    (setChannels g b d o c q s).ctlWait = s.ctlWait := rfl
@[simp] theorem setChannels_draws (g : Engine) (b : BusAgent) (d : Nat) (o : Bool) (c : List Elem) (q : List Byte) (s : State) :
    (setChannels g b d o c q s).draws = d := rfl

/-! ### setPresence -/

@[simp] theorem setPresence_ports (r : Byte) (s : State) : (setPresence r s).ports = s.ports := rfl
@[simp] theorem setPresence_eng (r : Byte) (s : State) : (setPresence r s).eng = s.eng := rfl
@[simp] theorem setPresence_framing (r : Byte) (s : State) : (setPresence r s).framing = s.framing := rfl
@[simp] theorem setPresence_cmd (r : Byte) (s : State) : (setPresence r s).cmd = s.cmd := rfl
@[simp] theorem setPresence_res (r : Byte) (s : State) : (setPresence r s).res = s.res := rfl
@[simp] theorem setPresence_presence (r : Byte) (s : State) : (setPresence r s).presence = !r.getLsbD 0 := rfl
@[simp] theorem setPresence_rs (r : Byte) (s : State) : (setPresence r s).rs = s.rs := rfl
@[simp] theorem setPresence_dm (r : Byte) (s : State) : (setPresence r s).dm = s.dm := rfl
@[simp] theorem setPresence_seq (r : Byte) (s : State) : (setPresence r s).seq = s.seq := rfl
@[simp] theorem setPresence_rom (r : Byte) (s : State) : (setPresence r s).rom = s.rom := rfl
@[simp] theorem setPresence_romCount (r : Byte) (s : State) : (setPresence r s).romCount = s.romCount := rfl
@[simp] theorem setPresence_rdg (r : Byte) (s : State) : (setPresence r s).rdg = s.rdg := rfl
@[simp] theorem setPresence_rdgCount (r : Byte) (s : State) : (setPresence r s).rdgCount = s.rdgCount := rfl
@[simp] theorem setPresence_flags (r : Byte) (s : State) : (setPresence r s).flags = s.flags := rfl
@[simp] theorem setPresence_par (r : Byte) (s : State) : (setPresence r s).par = s.par := rfl
@[simp] theorem setPresence_level (r : Byte) (s : State) : (setPresence r s).level = s.level := rfl
@[simp] theorem setPresence_bus (r : Byte) (s : State) : (setPresence r s).bus = s.bus := rfl
@[simp] theorem setPresence_inbox (r : Byte) (s : State) : (setPresence r s).inbox = s.inbox := rfl
@[simp] theorem setPresence_issue (r : Byte) (s : State) : (setPresence r s).issue = s.issue := rfl
@[simp] theorem setPresence_ret (r : Byte) (s : State) : (setPresence r s).ret = s.ret := rfl
@[simp] theorem setPresence_pollReads (r : Byte) (s : State) : (setPresence r s).pollReads = s.pollReads := rfl
@[simp] theorem setPresence_ctlWait (r : Byte) (s : State) : (setPresence r s).ctlWait = s.ctlWait := rfl
@[simp] theorem setPresence_draws (r : Byte) (s : State) : (setPresence r s).draws = s.draws := rfl

/-! ### setRet -/

@[simp] theorem setRet_ports (v : BitVec 16) (s : State) : (setRet v s).ports = s.ports := rfl
@[simp] theorem setRet_eng (v : BitVec 16) (s : State) : (setRet v s).eng = s.eng := rfl
@[simp] theorem setRet_framing (v : BitVec 16) (s : State) : (setRet v s).framing = s.framing := rfl
@[simp] theorem setRet_cmd (v : BitVec 16) (s : State) : (setRet v s).cmd = s.cmd := rfl
@[simp] theorem setRet_res (v : BitVec 16) (s : State) : (setRet v s).res = s.res := rfl
@[simp] theorem setRet_presence (v : BitVec 16) (s : State) : (setRet v s).presence = s.presence := rfl
@[simp] theorem setRet_rs (v : BitVec 16) (s : State) : (setRet v s).rs = s.rs := rfl
@[simp] theorem setRet_dm (v : BitVec 16) (s : State) : (setRet v s).dm = s.dm := rfl
@[simp] theorem setRet_seq (v : BitVec 16) (s : State) : (setRet v s).seq = s.seq := rfl
@[simp] theorem setRet_rom (v : BitVec 16) (s : State) : (setRet v s).rom = s.rom := rfl
@[simp] theorem setRet_romCount (v : BitVec 16) (s : State) : (setRet v s).romCount = s.romCount := rfl
@[simp] theorem setRet_rdg (v : BitVec 16) (s : State) : (setRet v s).rdg = s.rdg := rfl
@[simp] theorem setRet_rdgCount (v : BitVec 16) (s : State) : (setRet v s).rdgCount = s.rdgCount := rfl
@[simp] theorem setRet_flags (v : BitVec 16) (s : State) : (setRet v s).flags = s.flags := rfl
@[simp] theorem setRet_par (v : BitVec 16) (s : State) : (setRet v s).par = s.par := rfl
@[simp] theorem setRet_level (v : BitVec 16) (s : State) : (setRet v s).level = s.level := rfl
@[simp] theorem setRet_bus (v : BitVec 16) (s : State) : (setRet v s).bus = s.bus := rfl
@[simp] theorem setRet_inbox (v : BitVec 16) (s : State) : (setRet v s).inbox = s.inbox := rfl
@[simp] theorem setRet_issue (v : BitVec 16) (s : State) : (setRet v s).issue = s.issue := rfl
@[simp] theorem setRet_ret (v : BitVec 16) (s : State) : (setRet v s).ret = v := rfl
@[simp] theorem setRet_pollReads (v : BitVec 16) (s : State) : (setRet v s).pollReads = s.pollReads := rfl
@[simp] theorem setRet_ctlWait (v : BitVec 16) (s : State) : (setRet v s).ctlWait = s.ctlWait := rfl
@[simp] theorem setRet_draws (v : BitVec 16) (s : State) : (setRet v s).draws = s.draws := rfl

/-! ### engineReinit -/

@[simp] theorem engineReinit_ports (w : Framing) (s : State) : (engineReinit w s).ports = s.ports := rfl
@[simp] theorem engineReinit_eng (w : Framing) (s : State) : (engineReinit w s).eng = .reset := rfl
@[simp] theorem engineReinit_framing (w : Framing) (s : State) : (engineReinit w s).framing = w := rfl
@[simp] theorem engineReinit_cmd (w : Framing) (s : State) : (engineReinit w s).cmd = [] := rfl
@[simp] theorem engineReinit_res (w : Framing) (s : State) : (engineReinit w s).res = [] := rfl
@[simp] theorem engineReinit_presence (w : Framing) (s : State) : (engineReinit w s).presence = s.presence := rfl
@[simp] theorem engineReinit_rs (w : Framing) (s : State) : (engineReinit w s).rs = s.rs := rfl
@[simp] theorem engineReinit_dm (w : Framing) (s : State) : (engineReinit w s).dm = s.dm := rfl
@[simp] theorem engineReinit_seq (w : Framing) (s : State) : (engineReinit w s).seq = s.seq := rfl
@[simp] theorem engineReinit_rom (w : Framing) (s : State) : (engineReinit w s).rom = s.rom := rfl
@[simp] theorem engineReinit_romCount (w : Framing) (s : State) : (engineReinit w s).romCount = s.romCount := rfl
@[simp] theorem engineReinit_rdg (w : Framing) (s : State) : (engineReinit w s).rdg = s.rdg := rfl
@[simp] theorem engineReinit_rdgCount (w : Framing) (s : State) : (engineReinit w s).rdgCount = s.rdgCount := rfl
@[simp] theorem engineReinit_flags (w : Framing) (s : State) : (engineReinit w s).flags = s.flags := rfl
@[simp] theorem engineReinit_par (w : Framing) (s : State) : (engineReinit w s).par = s.par := rfl
@[simp] theorem engineReinit_level (w : Framing) (s : State) : (engineReinit w s).level = s.level := rfl
@[simp] theorem engineReinit_bus (w : Framing) (s : State) : (engineReinit w s).bus = s.bus := rfl
@[simp] theorem engineReinit_inbox (w : Framing) (s : State) : (engineReinit w s).inbox = s.inbox := rfl
@[simp] theorem engineReinit_issue (w : Framing) (s : State) : (engineReinit w s).issue = s.issue := rfl
@[simp] theorem engineReinit_ret (w : Framing) (s : State) : (engineReinit w s).ret = s.ret := rfl
@[simp] theorem engineReinit_pollReads (w : Framing) (s : State) : (engineReinit w s).pollReads = s.pollReads := rfl
@[simp] theorem engineReinit_ctlWait (w : Framing) (s : State) : (engineReinit w s).ctlWait = s.ctlWait := rfl
@[simp] theorem engineReinit_draws (w : Framing) (s : State) : (engineReinit w s).draws = s.draws := rfl

/-! ### tickTimers -/

@[simp] theorem tickTimers_ports (s : State) : (tickTimers s).ports = s.ports := rfl
@[simp] theorem tickTimers_eng (s : State) : (tickTimers s).eng = s.eng := rfl
@[simp] theorem tickTimers_framing (s : State) : (tickTimers s).framing = s.framing := rfl
@[simp] theorem tickTimers_cmd (s : State) : (tickTimers s).cmd = s.cmd := rfl
@[simp] theorem tickTimers_res (s : State) : (tickTimers s).res = s.res := rfl
@[simp] theorem tickTimers_presence (s : State) : (tickTimers s).presence = s.presence := rfl
@[simp] theorem tickTimers_rs (s : State) : (tickTimers s).rs = s.rs := rfl
@[simp] theorem tickTimers_seq (s : State) : (tickTimers s).seq = s.seq := rfl
@[simp] theorem tickTimers_rom (s : State) : (tickTimers s).rom = s.rom := rfl
@[simp] theorem tickTimers_romCount (s : State) : (tickTimers s).romCount = s.romCount := rfl
@[simp] theorem tickTimers_rdg (s : State) : (tickTimers s).rdg = s.rdg := rfl
@[simp] theorem tickTimers_rdgCount (s : State) : (tickTimers s).rdgCount = s.rdgCount := rfl
@[simp] theorem tickTimers_flags (s : State) : (tickTimers s).flags = s.flags := rfl
@[simp] theorem tickTimers_par (s : State) : (tickTimers s).par = s.par := rfl
@[simp] theorem tickTimers_level (s : State) : (tickTimers s).level = s.level := rfl
@[simp] theorem tickTimers_bus (s : State) : (tickTimers s).bus = s.bus := rfl
@[simp] theorem tickTimers_inbox (s : State) : (tickTimers s).inbox = s.inbox := rfl
@[simp] theorem tickTimers_issue (s : State) : (tickTimers s).issue = s.issue := rfl
@[simp] theorem tickTimers_ret (s : State) : (tickTimers s).ret = s.ret := rfl
@[simp] theorem tickTimers_pollReads (s : State) : (tickTimers s).pollReads = s.pollReads := rfl
@[simp] theorem tickTimers_ctlWait (s : State) : (tickTimers s).ctlWait = s.ctlWait := rfl
@[simp] theorem tickTimers_draws (s : State) : (tickTimers s).draws = s.draws := rfl

/-! ### hostRead -/

@[simp] theorem hostRead_eng (b : State) (a : BitVec 10) (s : State) : (hostRead b a s).eng = s.eng := rfl
@[simp] theorem hostRead_framing (b : State) (a : BitVec 10) (s : State) : (hostRead b a s).framing = s.framing := rfl
@[simp] theorem hostRead_cmd (b : State) (a : BitVec 10) (s : State) : (hostRead b a s).cmd = s.cmd := rfl
@[simp] theorem hostRead_res (b : State) (a : BitVec 10) (s : State) : (hostRead b a s).res = s.res := rfl
@[simp] theorem hostRead_presence (b : State) (a : BitVec 10) (s : State) : (hostRead b a s).presence = s.presence := rfl
@[simp] theorem hostRead_rs (b : State) (a : BitVec 10) (s : State) : (hostRead b a s).rs = s.rs := rfl
@[simp] theorem hostRead_dm (b : State) (a : BitVec 10) (s : State) : (hostRead b a s).dm = s.dm := rfl
@[simp] theorem hostRead_seq (b : State) (a : BitVec 10) (s : State) : (hostRead b a s).seq = s.seq := rfl
@[simp] theorem hostRead_rom (b : State) (a : BitVec 10) (s : State) : (hostRead b a s).rom = s.rom := rfl
@[simp] theorem hostRead_romCount (b : State) (a : BitVec 10) (s : State) : (hostRead b a s).romCount = s.romCount := rfl
@[simp] theorem hostRead_rdg (b : State) (a : BitVec 10) (s : State) : (hostRead b a s).rdg = s.rdg := rfl
@[simp] theorem hostRead_rdgCount (b : State) (a : BitVec 10) (s : State) : (hostRead b a s).rdgCount = s.rdgCount := rfl
@[simp] theorem hostRead_flags (b : State) (a : BitVec 10) (s : State) : (hostRead b a s).flags = s.flags := rfl
@[simp] theorem hostRead_par (b : State) (a : BitVec 10) (s : State) : (hostRead b a s).par = s.par := rfl
@[simp] theorem hostRead_level (b : State) (a : BitVec 10) (s : State) : (hostRead b a s).level = s.level := rfl
@[simp] theorem hostRead_bus (b : State) (a : BitVec 10) (s : State) : (hostRead b a s).bus = s.bus := rfl
@[simp] theorem hostRead_inbox (b : State) (a : BitVec 10) (s : State) : (hostRead b a s).inbox = s.inbox := rfl
@[simp] theorem hostRead_issue (b : State) (a : BitVec 10) (s : State) : (hostRead b a s).issue = s.issue := rfl
@[simp] theorem hostRead_ret (b : State) (a : BitVec 10) (s : State) : (hostRead b a s).ret = s.ret := rfl
@[simp] theorem hostRead_pollReads (b : State) (a : BitVec 10) (s : State) : (hostRead b a s).pollReads = s.pollReads := rfl
@[simp] theorem hostRead_ctlWait (b : State) (a : BitVec 10) (s : State) : (hostRead b a s).ctlWait = s.ctlWait := rfl

/-! ### coreReset: the core's registers at reset, the rest as it was -/

@[simp] theorem coreReset_ports (s : State) : (coreReset s).ports = s.ports := rfl
@[simp] theorem coreReset_eng (s : State) : (coreReset s).eng = .reset := rfl
@[simp] theorem coreReset_framing (s : State) : (coreReset s).framing = .w8 := rfl
@[simp] theorem coreReset_cmd (s : State) : (coreReset s).cmd = [] := rfl
@[simp] theorem coreReset_res (s : State) : (coreReset s).res = [] := rfl
@[simp] theorem coreReset_presence (s : State) : (coreReset s).presence = false := rfl
@[simp] theorem coreReset_rs (s : State) : (coreReset s).rs = .reset := rfl
@[simp] theorem coreReset_dm (s : State) : (coreReset s).dm = .reset := rfl
@[simp] theorem coreReset_seq (s : State) : (coreReset s).seq = .hostIdle := rfl
@[simp] theorem coreReset_rom (s : State) : (coreReset s).rom = List.replicate s.par.nMax 0 := rfl
@[simp] theorem coreReset_romCount (s : State) : (coreReset s).romCount = 0 := rfl
@[simp] theorem coreReset_rdg (s : State) : (coreReset s).rdg = List.replicate s.par.nMax .empty := rfl
@[simp] theorem coreReset_rdgCount (s : State) : (coreReset s).rdgCount = 0 := rfl
@[simp] theorem coreReset_flags (s : State) : (coreReset s).flags = .clear := rfl
@[simp] theorem coreReset_par (s : State) : (coreReset s).par = s.par := rfl
@[simp] theorem coreReset_level (s : State) : (coreReset s).level = s.level := rfl
@[simp] theorem coreReset_bus (s : State) : (coreReset s).bus = s.bus := rfl
@[simp] theorem coreReset_inbox (s : State) : (coreReset s).inbox = s.inbox := rfl
@[simp] theorem coreReset_issue (s : State) : (coreReset s).issue = s.issue := rfl
@[simp] theorem coreReset_ret (s : State) : (coreReset s).ret = s.ret := rfl
@[simp] theorem coreReset_pollReads (s : State) : (coreReset s).pollReads = 0 := rfl
@[simp] theorem coreReset_ctlWait (s : State) : (coreReset s).ctlWait = 0 := rfl
@[simp] theorem coreReset_draws (s : State) : (coreReset s).draws = s.draws := rfl

/-! ### nextCycle: the ports and the inbox move on -/

@[simp] theorem nextCycle_eng (s : State) : (nextCycle s).eng = s.eng := by
  unfold nextCycle; split <;> rfl
@[simp] theorem nextCycle_framing (s : State) : (nextCycle s).framing = s.framing := by
  unfold nextCycle; split <;> rfl
@[simp] theorem nextCycle_cmd (s : State) : (nextCycle s).cmd = s.cmd := by
  unfold nextCycle; split <;> rfl
@[simp] theorem nextCycle_res (s : State) : (nextCycle s).res = s.res := by
  unfold nextCycle; split <;> rfl
@[simp] theorem nextCycle_presence (s : State) : (nextCycle s).presence = s.presence := by
  unfold nextCycle; split <;> rfl
@[simp] theorem nextCycle_rs (s : State) : (nextCycle s).rs = s.rs := by
  unfold nextCycle; split <;> rfl
@[simp] theorem nextCycle_dm (s : State) : (nextCycle s).dm = s.dm := by
  unfold nextCycle; split <;> rfl
@[simp] theorem nextCycle_seq (s : State) : (nextCycle s).seq = s.seq := by
  unfold nextCycle; split <;> rfl
@[simp] theorem nextCycle_rom (s : State) : (nextCycle s).rom = s.rom := by
  unfold nextCycle; split <;> rfl
@[simp] theorem nextCycle_romCount (s : State) : (nextCycle s).romCount = s.romCount := by
  unfold nextCycle; split <;> rfl
@[simp] theorem nextCycle_rdg (s : State) : (nextCycle s).rdg = s.rdg := by
  unfold nextCycle; split <;> rfl
@[simp] theorem nextCycle_rdgCount (s : State) : (nextCycle s).rdgCount = s.rdgCount := by
  unfold nextCycle; split <;> rfl
@[simp] theorem nextCycle_flags (s : State) : (nextCycle s).flags = s.flags := by
  unfold nextCycle; split <;> rfl
@[simp] theorem nextCycle_par (s : State) : (nextCycle s).par = s.par := by
  unfold nextCycle; split <;> rfl
@[simp] theorem nextCycle_level (s : State) : (nextCycle s).level = s.level := by
  unfold nextCycle; split <;> rfl
@[simp] theorem nextCycle_bus (s : State) : (nextCycle s).bus = s.bus := by
  unfold nextCycle; split <;> rfl
@[simp] theorem nextCycle_issue (s : State) : (nextCycle s).issue = s.issue := by
  unfold nextCycle; split <;> rfl
@[simp] theorem nextCycle_ret (s : State) : (nextCycle s).ret = s.ret := by
  unfold nextCycle; split <;> rfl
@[simp] theorem nextCycle_pollReads (s : State) : (nextCycle s).pollReads = s.pollReads := by
  unfold nextCycle; split <;> rfl
@[simp] theorem nextCycle_ctlWait (s : State) : (nextCycle s).ctlWait = s.ctlWait := by
  unfold nextCycle; split <;> rfl
@[simp] theorem nextCycle_draws (s : State) : (nextCycle s).draws = s.draws := by
  unfold nextCycle; split <;> rfl

/-- With no later tick given, the host is idle from the next tick on. -/
theorem nextCycle_quiet (s : State) (h : s.inbox = []) (hp : s.ports.host = .idle) : nextCycle s = s := by
  obtain ⟨⟨_, _, _⟩, _⟩ := s
  simp_all [nextCycle]

/-! ### loadLatency: the wait and the draws -/

@[simp] theorem loadLatency_ports (s : State) : (loadLatency s).ports = s.ports := by
  unfold loadLatency; split <;> rfl
@[simp] theorem loadLatency_eng (s : State) : (loadLatency s).eng = s.eng := by
  unfold loadLatency; split <;> rfl
@[simp] theorem loadLatency_framing (s : State) : (loadLatency s).framing = s.framing := by
  unfold loadLatency; split <;> rfl
@[simp] theorem loadLatency_cmd (s : State) : (loadLatency s).cmd = s.cmd := by
  unfold loadLatency; split <;> rfl
@[simp] theorem loadLatency_res (s : State) : (loadLatency s).res = s.res := by
  unfold loadLatency; split <;> rfl
@[simp] theorem loadLatency_presence (s : State) : (loadLatency s).presence = s.presence := by
  unfold loadLatency; split <;> rfl
@[simp] theorem loadLatency_rs (s : State) : (loadLatency s).rs = s.rs := by
  unfold loadLatency; split <;> rfl
@[simp] theorem loadLatency_dm (s : State) : (loadLatency s).dm = s.dm := by
  unfold loadLatency; split <;> rfl
@[simp] theorem loadLatency_seq (s : State) : (loadLatency s).seq = s.seq := by
  unfold loadLatency; split <;> rfl
@[simp] theorem loadLatency_rom (s : State) : (loadLatency s).rom = s.rom := by
  unfold loadLatency; split <;> rfl
@[simp] theorem loadLatency_romCount (s : State) : (loadLatency s).romCount = s.romCount := by
  unfold loadLatency; split <;> rfl
@[simp] theorem loadLatency_rdg (s : State) : (loadLatency s).rdg = s.rdg := by
  unfold loadLatency; split <;> rfl
@[simp] theorem loadLatency_rdgCount (s : State) : (loadLatency s).rdgCount = s.rdgCount := by
  unfold loadLatency; split <;> rfl
@[simp] theorem loadLatency_flags (s : State) : (loadLatency s).flags = s.flags := by
  unfold loadLatency; split <;> rfl
@[simp] theorem loadLatency_par (s : State) : (loadLatency s).par = s.par := by
  unfold loadLatency; split <;> rfl
@[simp] theorem loadLatency_level (s : State) : (loadLatency s).level = s.level := by
  unfold loadLatency; split <;> rfl
@[simp] theorem loadLatency_bus (s : State) : (loadLatency s).bus = s.bus := by
  unfold loadLatency; split <;> rfl
@[simp] theorem loadLatency_inbox (s : State) : (loadLatency s).inbox = s.inbox := by
  unfold loadLatency; split <;> rfl
@[simp] theorem loadLatency_issue (s : State) : (loadLatency s).issue = s.issue := by
  unfold loadLatency; split <;> rfl
@[simp] theorem loadLatency_ret (s : State) : (loadLatency s).ret = s.ret := by
  unfold loadLatency; split <;> rfl
@[simp] theorem loadLatency_pollReads (s : State) : (loadLatency s).pollReads = s.pollReads := by
  unfold loadLatency; split <;> rfl

/-! ### atSearchStart -/

@[simp] theorem atSearchStart_ports (s : State) : (atSearchStart s).ports = s.ports := rfl
@[simp] theorem atSearchStart_eng (s : State) : (atSearchStart s).eng = s.eng := rfl
@[simp] theorem atSearchStart_framing (s : State) : (atSearchStart s).framing = s.framing := rfl
@[simp] theorem atSearchStart_cmd (s : State) : (atSearchStart s).cmd = s.cmd := rfl
@[simp] theorem atSearchStart_res (s : State) : (atSearchStart s).res = s.res := rfl
@[simp] theorem atSearchStart_presence (s : State) : (atSearchStart s).presence = s.presence := rfl
@[simp] theorem atSearchStart_rs (s : State) : (atSearchStart s).rs = { s.rs with rom := 0, last := none, new := none } := rfl
@[simp] theorem atSearchStart_dm (s : State) : (atSearchStart s).dm = s.dm := rfl
@[simp] theorem atSearchStart_seq (s : State) : (atSearchStart s).seq = .push .passReset := rfl
@[simp] theorem atSearchStart_rom (s : State) : (atSearchStart s).rom = s.rom := rfl
@[simp] theorem atSearchStart_romCount (s : State) : (atSearchStart s).romCount = 0 := rfl
@[simp] theorem atSearchStart_rdg (s : State) : (atSearchStart s).rdg = s.rdg := rfl
@[simp] theorem atSearchStart_rdgCount (s : State) : (atSearchStart s).rdgCount = s.rdgCount := rfl
@[simp] theorem atSearchStart_flags (s : State) : (atSearchStart s).flags = s.flags := rfl
@[simp] theorem atSearchStart_par (s : State) : (atSearchStart s).par = s.par := rfl
@[simp] theorem atSearchStart_level (s : State) : (atSearchStart s).level = s.level := rfl
@[simp] theorem atSearchStart_bus (s : State) : (atSearchStart s).bus = s.bus := rfl
@[simp] theorem atSearchStart_inbox (s : State) : (atSearchStart s).inbox = s.inbox := rfl
@[simp] theorem atSearchStart_issue (s : State) : (atSearchStart s).issue = s.issue := rfl
@[simp] theorem atSearchStart_ret (s : State) : (atSearchStart s).ret = s.ret := rfl
@[simp] theorem atSearchStart_pollReads (s : State) : (atSearchStart s).pollReads = s.pollReads := rfl
@[simp] theorem atSearchStart_ctlWait (s : State) : (atSearchStart s).ctlWait = s.ctlWait := rfl
@[simp] theorem atSearchStart_draws (s : State) : (atSearchStart s).draws = s.draws := rfl

/-! ### atDev -/

@[simp] theorem atDev_ports (s : State) : (atDev s).ports = s.ports := rfl
@[simp] theorem atDev_eng (s : State) : (atDev s).eng = s.eng := rfl
@[simp] theorem atDev_framing (s : State) : (atDev s).framing = s.framing := rfl
@[simp] theorem atDev_cmd (s : State) : (atDev s).cmd = s.cmd := rfl
@[simp] theorem atDev_res (s : State) : (atDev s).res = s.res := rfl
@[simp] theorem atDev_presence (s : State) : (atDev s).presence = s.presence := rfl
@[simp] theorem atDev_rs (s : State) : (atDev s).rs = s.rs := rfl
@[simp] theorem atDev_dm (s : State) : (atDev s).dm = s.dm := rfl
@[simp] theorem atDev_seq (s : State) : (atDev s).seq = if s.dm.k = s.romCount then .hostIdle else .push .devReset := rfl
@[simp] theorem atDev_rom (s : State) : (atDev s).rom = s.rom := rfl
@[simp] theorem atDev_romCount (s : State) : (atDev s).romCount = s.romCount := rfl
@[simp] theorem atDev_rdg (s : State) : (atDev s).rdg = s.rdg := rfl
@[simp] theorem atDev_rdgCount (s : State) : (atDev s).rdgCount = if s.dm.k = s.romCount then s.romCount else s.rdgCount := rfl
@[simp] theorem atDev_flags (s : State) : (atDev s).flags = s.flags := rfl
@[simp] theorem atDev_par (s : State) : (atDev s).par = s.par := rfl
@[simp] theorem atDev_level (s : State) : (atDev s).level = s.level := rfl
@[simp] theorem atDev_bus (s : State) : (atDev s).bus = s.bus := rfl
@[simp] theorem atDev_inbox (s : State) : (atDev s).inbox = s.inbox := rfl
@[simp] theorem atDev_issue (s : State) : (atDev s).issue = s.issue := rfl
@[simp] theorem atDev_ret (s : State) : (atDev s).ret = s.ret := rfl
@[simp] theorem atDev_pollReads (s : State) : (atDev s).pollReads = s.pollReads := rfl
@[simp] theorem atDev_ctlWait (s : State) : (atDev s).ctlWait = s.ctlWait := rfl
@[simp] theorem atDev_draws (s : State) : (atDev s).draws = s.draws := rfl

/-! ### showLine: only what `ow_in` shows -/

@[simp] theorem showLine_eng (s : State) : (showLine s).eng = s.eng := by
  unfold showLine; split <;> rfl
@[simp] theorem showLine_framing (s : State) : (showLine s).framing = s.framing := by
  unfold showLine; split <;> rfl
@[simp] theorem showLine_cmd (s : State) : (showLine s).cmd = s.cmd := by
  unfold showLine; split <;> rfl
@[simp] theorem showLine_res (s : State) : (showLine s).res = s.res := by
  unfold showLine; split <;> rfl
@[simp] theorem showLine_presence (s : State) : (showLine s).presence = s.presence := by
  unfold showLine; split <;> rfl
@[simp] theorem showLine_rs (s : State) : (showLine s).rs = s.rs := by
  unfold showLine; split <;> rfl
@[simp] theorem showLine_dm (s : State) : (showLine s).dm = s.dm := by
  unfold showLine; split <;> rfl
@[simp] theorem showLine_seq (s : State) : (showLine s).seq = s.seq := by
  unfold showLine; split <;> rfl
@[simp] theorem showLine_rom (s : State) : (showLine s).rom = s.rom := by
  unfold showLine; split <;> rfl
@[simp] theorem showLine_romCount (s : State) : (showLine s).romCount = s.romCount := by
  unfold showLine; split <;> rfl
@[simp] theorem showLine_rdg (s : State) : (showLine s).rdg = s.rdg := by
  unfold showLine; split <;> rfl
@[simp] theorem showLine_rdgCount (s : State) : (showLine s).rdgCount = s.rdgCount := by
  unfold showLine; split <;> rfl
@[simp] theorem showLine_flags (s : State) : (showLine s).flags = s.flags := by
  unfold showLine; split <;> rfl
@[simp] theorem showLine_par (s : State) : (showLine s).par = s.par := by
  unfold showLine; split <;> rfl
@[simp] theorem showLine_level (s : State) : (showLine s).level = s.level := by
  unfold showLine; split <;> rfl
@[simp] theorem showLine_bus (s : State) : (showLine s).bus = s.bus := by
  unfold showLine; split <;> rfl
@[simp] theorem showLine_inbox (s : State) : (showLine s).inbox = s.inbox := by
  unfold showLine; split <;> rfl
@[simp] theorem showLine_issue (s : State) : (showLine s).issue = s.issue := by
  unfold showLine; split <;> rfl
@[simp] theorem showLine_ret (s : State) : (showLine s).ret = s.ret := by
  unfold showLine; split <;> rfl
@[simp] theorem showLine_pollReads (s : State) : (showLine s).pollReads = s.pollReads := by
  unfold showLine; split <;> rfl
@[simp] theorem showLine_ctlWait (s : State) : (showLine s).ctlWait = s.ctlWait := by
  unfold showLine; split <;> rfl
@[simp] theorem showLine_draws (s : State) : (showLine s).draws = s.draws := by
  unfold showLine; split <;> rfl

@[simp] theorem showLine_host (s : State) : (showLine s).ports.host = s.ports.host := by
  unfold showLine; split <;> rfl
@[simp] theorem showLine_hRdata (s : State) : (showLine s).ports.hRdata = s.ports.hRdata := by
  unfold showLine; split <;> rfl

/-- Showing the line writes `ow_in` alone. -/
theorem showLine_eq (s : State) : ∃ o, showLine s = { s with ports := { s.ports with owIn := o } } := by
  unfold showLine
  split
  · exact ⟨s.ports.owIn, rfl⟩
  · exact ⟨lineLevel s, rfl⟩

theorem showLine_transaction {s : State} (h : s.level = .transaction) : showLine s = s := by
  unfold showLine; rw [h]

theorem showLine_owIn {s : State} (h : s.level = .cycle) : (showLine s).ports.owIn = lineLevel s := by
  unfold showLine; rw [h]

end Sys2Proof.Machine
end

