-- ==== Sys2Proof/Laws/Bus.lean ====
section
/-! SUPPORT. The BUS agent and ENGINE at Level T: each call changes the BUS agent, the draws, `ow_in` and, for a whole
element, the tail of RES; nothing else. -/

namespace Sys2Proof.Machine

/-- Everything a sample can do. -/
theorem sampleLevel_eq (s : State) : ∃ b d o, (sampleLevel s).1 = setBus b d o s := by
  unfold sampleLevel
  split <;> exact ⟨_, _, _, rfl⟩

/-- Everything `Bus.reset()` can do to the state. -/
theorem busReset_eq (s : State) : ∃ b d o, (busReset s).1 = setBus b d o s := by
  unfold busReset
  split
  · exact ⟨_, _, _, rfl⟩
  · exact sampleLevel_eq s

/-- Everything `Bus.slot(m)` can do to the state. -/
theorem busSlot_eq (m : Bool) (s : State) : ∃ b d o, (busSlot m s).1 = setBus b d o s := by
  unfold busSlot
  split
  · exact ⟨_, _, _, rfl⟩
  · cases m
    · exact ⟨s.bus, s.draws, s.ports.owIn, rfl⟩
    · exact sampleLevel_eq s

/-- The output bit of a slot with input bit 0 is 0, whatever the bus does (R164). -/
@[simp] theorem busSlot_false_bit (s : State) : (busSlot false s).2 = false := by
  unfold busSlot
  split <;> rfl

/-- Two changes of the BUS agent in a row are one. -/
@[simp] theorem setBus_setBus (b b' : BusAgent) (d d' : Nat) (o o' : Bool) (s : State) :
    setBus b d o (setBus b' d' o' s) = setBus b d o s := rfl

/-- Everything the slots of a transfer can do to the state. -/
theorem slots_eq (data : Byte) (n k : Nat) (r : Byte) (s : State) :
    ∃ b d o, (slots data n k r s).1 = setBus b d o s := by
  induction n generalizing k r s with
  | zero => exact ⟨s.bus, s.draws, s.ports.owIn, rfl⟩
  | succ n ih =>
    obtain ⟨b, d, o, h⟩ := busSlot_eq (data.getLsbD k) s
    obtain ⟨b', d', o', h'⟩ := ih (k + 1) (setBit r k (busSlot (data.getLsbD k) s).2) (busSlot (data.getLsbD k) s).1
    exact ⟨b', d', o', by rw [slots, h', h, setBus_setBus]⟩

/-- The ENGINE registers g that an element performed in one step may leave in s: at Level T those of s; at Level C those
of IDLE or of the recovery of a reset sequence, the line released. -/
def EngineLeft (s : State) (g : Engine) : Prop :=
  g = s.eng ∨ (s.level = .cycle ∧ g.drive = false ∧ (g.phase = .idle ∨ g.phase = .rstRec) ∧
    (g.cnt = 1 ∨ g.cnt = s.par.tRstrec) ∧ (g.nbit = s.eng.nbit ∨ g.nbit.toNat ≤ 8))

/-- At Level T ENGINE's registers stay. -/
theorem EngineLeft.transaction {s : State} {g : Engine} (h : EngineLeft s g) (hl : s.level = .transaction) :
    g = s.eng := by
  rcases h with h | ⟨hc, -⟩
  · exact h
  · rw [hl] at hc; cases hc

/-- Two elements, one after the other. -/
theorem EngineLeft.trans {s u : State} {g : Engine} (h : EngineLeft s u.eng) (h' : EngineLeft u g)
    (hl : u.level = s.level) (hp : u.par = s.par) : EngineLeft s g := by
  rcases h' with rfl | ⟨hc, hd, hph, hcnt, hn⟩
  · exact h
  · rw [hl] at hc
    rw [hp] at hcnt
    refine .inr ⟨hc, hd, hph, hcnt, ?_⟩
    rcases hn with hn | hn
    · rcases h with h | ⟨-, -, -, -, h⟩
      · exact .inl (by rw [hn, h])
      · rw [hn]; exact h
    · exact .inr hn

/-- Everything `leaveEngine` can do. -/
theorem leaveEngine_eq (g : Engine) (s : State) :
    leaveEngine g s = setEngine (match s.level with | .transaction => s.eng | .cycle => g) s := by
  unfold leaveEngine
  cases s.level <;> rfl

/-- Everything the end of a reset sequence can do. -/
theorem afterReset_eq (x : State × Bool) : ∃ g, EngineLeft x.1 g ∧ afterReset x = setEngine g x.1 := by
  refine ⟨_, ?_, leaveEngine_eq _ _⟩
  unfold EngineLeft
  cases hl : x.1.level
  · exact .inl rfl
  · exact .inr ⟨rfl, rfl, .inr rfl, .inr rfl, .inl rfl⟩

/-- A transfer has at most eight slots (R37). -/
theorem nbit_le (w : Framing) : (BitVec.ofNat 4 w.width).toNat ≤ 8 := by cases w <;> decide

/-- Everything the end of a transfer can do. -/
theorem afterXfer_eq (data : Byte) (x : State × Byte) : ∃ g, EngineLeft x.1 g ∧ afterXfer data x = setEngine g x.1 := by
  refine ⟨_, ?_, leaveEngine_eq _ _⟩
  unfold EngineLeft
  cases hl : x.1.level
  · exact .inl rfl
  · exact .inr ⟨rfl, rfl, .inl rfl, .inl rfl, .inr (nbit_le x.1.framing)⟩

/-- Everything ENGINE can do with an element in one step: one RES element, the bus, and at Level C its registers
(R86, R160). -/
theorem performElem_eq (e : Elem) (s : State) :
    ∃ g b d o r, EngineLeft s g ∧ performElem e s = pushRes r (setEngine g (setBus b d o s)) := by
  unfold performElem
  split
  · obtain ⟨b, d, o, h⟩ := busReset_eq s
    obtain ⟨g, hg, ha⟩ := afterReset_eq (busReset s)
    rw [h] at hg ha
    exact ⟨g, b, d, o, zext8 (busReset s).2, hg, by rw [performReset, ha]⟩
  · obtain ⟨b, d, o, h⟩ := slots_eq (elemData e) s.framing.width 0 0#8 s
    obtain ⟨g, hg, ha⟩ := afterXfer_eq (elemData e) (slots (elemData e) s.framing.width 0 0#8 s)
    rw [h] at hg ha
    exact ⟨g, b, d, o, (slots (elemData e) s.framing.width 0 0#8 s).2, hg, by rw [performXfer, ha]⟩

/-! ### busReset -/

@[simp] theorem busReset_eng (s : State) : (busReset s).1.eng = s.eng := by
  obtain ⟨b, d, o, h⟩ := busReset_eq s; rw [h]; rfl
@[simp] theorem busReset_framing (s : State) : (busReset s).1.framing = s.framing := by
  obtain ⟨b, d, o, h⟩ := busReset_eq s; rw [h]; rfl
@[simp] theorem busReset_cmd (s : State) : (busReset s).1.cmd = s.cmd := by
  obtain ⟨b, d, o, h⟩ := busReset_eq s; rw [h]; rfl
@[simp] theorem busReset_res (s : State) : (busReset s).1.res = s.res := by
  obtain ⟨b, d, o, h⟩ := busReset_eq s; rw [h]; rfl
@[simp] theorem busReset_presence (s : State) : (busReset s).1.presence = s.presence := by
  obtain ⟨b, d, o, h⟩ := busReset_eq s; rw [h]; rfl
@[simp] theorem busReset_rs (s : State) : (busReset s).1.rs = s.rs := by
  obtain ⟨b, d, o, h⟩ := busReset_eq s; rw [h]; rfl
@[simp] theorem busReset_dm (s : State) : (busReset s).1.dm = s.dm := by
  obtain ⟨b, d, o, h⟩ := busReset_eq s; rw [h]; rfl
@[simp] theorem busReset_seq (s : State) : (busReset s).1.seq = s.seq := by
  obtain ⟨b, d, o, h⟩ := busReset_eq s; rw [h]; rfl
@[simp] theorem busReset_rom (s : State) : (busReset s).1.rom = s.rom := by
  obtain ⟨b, d, o, h⟩ := busReset_eq s; rw [h]; rfl
@[simp] theorem busReset_romCount (s : State) : (busReset s).1.romCount = s.romCount := by
  obtain ⟨b, d, o, h⟩ := busReset_eq s; rw [h]; rfl
@[simp] theorem busReset_rdg (s : State) : (busReset s).1.rdg = s.rdg := by
  obtain ⟨b, d, o, h⟩ := busReset_eq s; rw [h]; rfl
@[simp] theorem busReset_rdgCount (s : State) : (busReset s).1.rdgCount = s.rdgCount := by
  obtain ⟨b, d, o, h⟩ := busReset_eq s; rw [h]; rfl
@[simp] theorem busReset_flags (s : State) : (busReset s).1.flags = s.flags := by
  obtain ⟨b, d, o, h⟩ := busReset_eq s; rw [h]; rfl
@[simp] theorem busReset_par (s : State) : (busReset s).1.par = s.par := by
  obtain ⟨b, d, o, h⟩ := busReset_eq s; rw [h]; rfl
@[simp] theorem busReset_level (s : State) : (busReset s).1.level = s.level := by
  obtain ⟨b, d, o, h⟩ := busReset_eq s; rw [h]; rfl
@[simp] theorem busReset_inbox (s : State) : (busReset s).1.inbox = s.inbox := by
  obtain ⟨b, d, o, h⟩ := busReset_eq s; rw [h]; rfl
@[simp] theorem busReset_issue (s : State) : (busReset s).1.issue = s.issue := by
  obtain ⟨b, d, o, h⟩ := busReset_eq s; rw [h]; rfl
@[simp] theorem busReset_ret (s : State) : (busReset s).1.ret = s.ret := by
  obtain ⟨b, d, o, h⟩ := busReset_eq s; rw [h]; rfl
@[simp] theorem busReset_pollReads (s : State) : (busReset s).1.pollReads = s.pollReads := by
  obtain ⟨b, d, o, h⟩ := busReset_eq s; rw [h]; rfl
@[simp] theorem busReset_ctlWait (s : State) : (busReset s).1.ctlWait = s.ctlWait := by
  obtain ⟨b, d, o, h⟩ := busReset_eq s; rw [h]; rfl
@[simp] theorem busReset_host (s : State) : (busReset s).1.ports.host = s.ports.host := by
  obtain ⟨b, d, o, h⟩ := busReset_eq s; rw [h]; rfl
@[simp] theorem busReset_hRdata (s : State) : (busReset s).1.ports.hRdata = s.ports.hRdata := by
  obtain ⟨b, d, o, h⟩ := busReset_eq s; rw [h]; rfl

/-! ### busSlot -/

@[simp] theorem busSlot_eng (m : Bool) (s : State) : (busSlot m s).1.eng = s.eng := by
  obtain ⟨b, d, o, h⟩ := busSlot_eq m s; rw [h]; rfl
@[simp] theorem busSlot_framing (m : Bool) (s : State) : (busSlot m s).1.framing = s.framing := by
  obtain ⟨b, d, o, h⟩ := busSlot_eq m s; rw [h]; rfl
@[simp] theorem busSlot_cmd (m : Bool) (s : State) : (busSlot m s).1.cmd = s.cmd := by
  obtain ⟨b, d, o, h⟩ := busSlot_eq m s; rw [h]; rfl
@[simp] theorem busSlot_res (m : Bool) (s : State) : (busSlot m s).1.res = s.res := by
  obtain ⟨b, d, o, h⟩ := busSlot_eq m s; rw [h]; rfl
@[simp] theorem busSlot_presence (m : Bool) (s : State) : (busSlot m s).1.presence = s.presence := by
  obtain ⟨b, d, o, h⟩ := busSlot_eq m s; rw [h]; rfl
@[simp] theorem busSlot_rs (m : Bool) (s : State) : (busSlot m s).1.rs = s.rs := by
  obtain ⟨b, d, o, h⟩ := busSlot_eq m s; rw [h]; rfl
@[simp] theorem busSlot_dm (m : Bool) (s : State) : (busSlot m s).1.dm = s.dm := by
  obtain ⟨b, d, o, h⟩ := busSlot_eq m s; rw [h]; rfl
@[simp] theorem busSlot_seq (m : Bool) (s : State) : (busSlot m s).1.seq = s.seq := by
  obtain ⟨b, d, o, h⟩ := busSlot_eq m s; rw [h]; rfl
@[simp] theorem busSlot_rom (m : Bool) (s : State) : (busSlot m s).1.rom = s.rom := by
  obtain ⟨b, d, o, h⟩ := busSlot_eq m s; rw [h]; rfl
@[simp] theorem busSlot_romCount (m : Bool) (s : State) : (busSlot m s).1.romCount = s.romCount := by
  obtain ⟨b, d, o, h⟩ := busSlot_eq m s; rw [h]; rfl
@[simp] theorem busSlot_rdg (m : Bool) (s : State) : (busSlot m s).1.rdg = s.rdg := by
  obtain ⟨b, d, o, h⟩ := busSlot_eq m s; rw [h]; rfl
@[simp] theorem busSlot_rdgCount (m : Bool) (s : State) : (busSlot m s).1.rdgCount = s.rdgCount := by
  obtain ⟨b, d, o, h⟩ := busSlot_eq m s; rw [h]; rfl
@[simp] theorem busSlot_flags (m : Bool) (s : State) : (busSlot m s).1.flags = s.flags := by
  obtain ⟨b, d, o, h⟩ := busSlot_eq m s; rw [h]; rfl
@[simp] theorem busSlot_par (m : Bool) (s : State) : (busSlot m s).1.par = s.par := by
  obtain ⟨b, d, o, h⟩ := busSlot_eq m s; rw [h]; rfl
@[simp] theorem busSlot_level (m : Bool) (s : State) : (busSlot m s).1.level = s.level := by
  obtain ⟨b, d, o, h⟩ := busSlot_eq m s; rw [h]; rfl
@[simp] theorem busSlot_inbox (m : Bool) (s : State) : (busSlot m s).1.inbox = s.inbox := by
  obtain ⟨b, d, o, h⟩ := busSlot_eq m s; rw [h]; rfl
@[simp] theorem busSlot_issue (m : Bool) (s : State) : (busSlot m s).1.issue = s.issue := by
  obtain ⟨b, d, o, h⟩ := busSlot_eq m s; rw [h]; rfl
@[simp] theorem busSlot_ret (m : Bool) (s : State) : (busSlot m s).1.ret = s.ret := by
  obtain ⟨b, d, o, h⟩ := busSlot_eq m s; rw [h]; rfl
@[simp] theorem busSlot_pollReads (m : Bool) (s : State) : (busSlot m s).1.pollReads = s.pollReads := by
  obtain ⟨b, d, o, h⟩ := busSlot_eq m s; rw [h]; rfl
@[simp] theorem busSlot_ctlWait (m : Bool) (s : State) : (busSlot m s).1.ctlWait = s.ctlWait := by
  obtain ⟨b, d, o, h⟩ := busSlot_eq m s; rw [h]; rfl
@[simp] theorem busSlot_host (m : Bool) (s : State) : (busSlot m s).1.ports.host = s.ports.host := by
  obtain ⟨b, d, o, h⟩ := busSlot_eq m s; rw [h]; rfl
@[simp] theorem busSlot_hRdata (m : Bool) (s : State) : (busSlot m s).1.ports.hRdata = s.ports.hRdata := by
  obtain ⟨b, d, o, h⟩ := busSlot_eq m s; rw [h]; rfl

/-! ### slots -/

@[simp] theorem slots_eng (data : Byte) (n k : Nat) (r : Byte) (s : State) : (slots data n k r s).1.eng = s.eng := by
  obtain ⟨b, d, o, h⟩ := slots_eq data n k r s; rw [h]; rfl
@[simp] theorem slots_framing (data : Byte) (n k : Nat) (r : Byte) (s : State) : (slots data n k r s).1.framing = s.framing := by
  obtain ⟨b, d, o, h⟩ := slots_eq data n k r s; rw [h]; rfl
@[simp] theorem slots_cmd (data : Byte) (n k : Nat) (r : Byte) (s : State) : (slots data n k r s).1.cmd = s.cmd := by
  obtain ⟨b, d, o, h⟩ := slots_eq data n k r s; rw [h]; rfl
@[simp] theorem slots_res (data : Byte) (n k : Nat) (r : Byte) (s : State) : (slots data n k r s).1.res = s.res := by
  obtain ⟨b, d, o, h⟩ := slots_eq data n k r s; rw [h]; rfl
@[simp] theorem slots_presence (data : Byte) (n k : Nat) (r : Byte) (s : State) : (slots data n k r s).1.presence = s.presence := by
  obtain ⟨b, d, o, h⟩ := slots_eq data n k r s; rw [h]; rfl
@[simp] theorem slots_rs (data : Byte) (n k : Nat) (r : Byte) (s : State) : (slots data n k r s).1.rs = s.rs := by
  obtain ⟨b, d, o, h⟩ := slots_eq data n k r s; rw [h]; rfl
@[simp] theorem slots_dm (data : Byte) (n k : Nat) (r : Byte) (s : State) : (slots data n k r s).1.dm = s.dm := by
  obtain ⟨b, d, o, h⟩ := slots_eq data n k r s; rw [h]; rfl
@[simp] theorem slots_seq (data : Byte) (n k : Nat) (r : Byte) (s : State) : (slots data n k r s).1.seq = s.seq := by
  obtain ⟨b, d, o, h⟩ := slots_eq data n k r s; rw [h]; rfl
@[simp] theorem slots_rom (data : Byte) (n k : Nat) (r : Byte) (s : State) : (slots data n k r s).1.rom = s.rom := by
  obtain ⟨b, d, o, h⟩ := slots_eq data n k r s; rw [h]; rfl
@[simp] theorem slots_romCount (data : Byte) (n k : Nat) (r : Byte) (s : State) : (slots data n k r s).1.romCount = s.romCount := by
  obtain ⟨b, d, o, h⟩ := slots_eq data n k r s; rw [h]; rfl
@[simp] theorem slots_rdg (data : Byte) (n k : Nat) (r : Byte) (s : State) : (slots data n k r s).1.rdg = s.rdg := by
  obtain ⟨b, d, o, h⟩ := slots_eq data n k r s; rw [h]; rfl
@[simp] theorem slots_rdgCount (data : Byte) (n k : Nat) (r : Byte) (s : State) : (slots data n k r s).1.rdgCount = s.rdgCount := by
  obtain ⟨b, d, o, h⟩ := slots_eq data n k r s; rw [h]; rfl
@[simp] theorem slots_flags (data : Byte) (n k : Nat) (r : Byte) (s : State) : (slots data n k r s).1.flags = s.flags := by
  obtain ⟨b, d, o, h⟩ := slots_eq data n k r s; rw [h]; rfl
@[simp] theorem slots_par (data : Byte) (n k : Nat) (r : Byte) (s : State) : (slots data n k r s).1.par = s.par := by
  obtain ⟨b, d, o, h⟩ := slots_eq data n k r s; rw [h]; rfl
@[simp] theorem slots_level (data : Byte) (n k : Nat) (r : Byte) (s : State) : (slots data n k r s).1.level = s.level := by
  obtain ⟨b, d, o, h⟩ := slots_eq data n k r s; rw [h]; rfl
@[simp] theorem slots_inbox (data : Byte) (n k : Nat) (r : Byte) (s : State) : (slots data n k r s).1.inbox = s.inbox := by
  obtain ⟨b, d, o, h⟩ := slots_eq data n k r s; rw [h]; rfl
@[simp] theorem slots_issue (data : Byte) (n k : Nat) (r : Byte) (s : State) : (slots data n k r s).1.issue = s.issue := by
  obtain ⟨b, d, o, h⟩ := slots_eq data n k r s; rw [h]; rfl
@[simp] theorem slots_ret (data : Byte) (n k : Nat) (r : Byte) (s : State) : (slots data n k r s).1.ret = s.ret := by
  obtain ⟨b, d, o, h⟩ := slots_eq data n k r s; rw [h]; rfl
@[simp] theorem slots_pollReads (data : Byte) (n k : Nat) (r : Byte) (s : State) : (slots data n k r s).1.pollReads = s.pollReads := by
  obtain ⟨b, d, o, h⟩ := slots_eq data n k r s; rw [h]; rfl
@[simp] theorem slots_ctlWait (data : Byte) (n k : Nat) (r : Byte) (s : State) : (slots data n k r s).1.ctlWait = s.ctlWait := by
  obtain ⟨b, d, o, h⟩ := slots_eq data n k r s; rw [h]; rfl
@[simp] theorem slots_host (data : Byte) (n k : Nat) (r : Byte) (s : State) : (slots data n k r s).1.ports.host = s.ports.host := by
  obtain ⟨b, d, o, h⟩ := slots_eq data n k r s; rw [h]; rfl
@[simp] theorem slots_hRdata (data : Byte) (n k : Nat) (r : Byte) (s : State) : (slots data n k r s).1.ports.hRdata = s.ports.hRdata := by
  obtain ⟨b, d, o, h⟩ := slots_eq data n k r s; rw [h]; rfl

/-! ### performElem -/

theorem performElem_eng (e : Elem) {s : State} (hl : s.level = .transaction) : (performElem e s).eng = s.eng := by
  obtain ⟨g, b, d, o, r, hg, h⟩ := performElem_eq e s; rw [h, ← hg.transaction hl]; rfl
@[simp] theorem performElem_framing (e : Elem) (s : State) : (performElem e s).framing = s.framing := by
  obtain ⟨g, b, d, o, r, -, h⟩ := performElem_eq e s; rw [h]; rfl
@[simp] theorem performElem_cmd (e : Elem) (s : State) : (performElem e s).cmd = s.cmd := by
  obtain ⟨g, b, d, o, r, -, h⟩ := performElem_eq e s; rw [h]; rfl
@[simp] theorem performElem_presence (e : Elem) (s : State) : (performElem e s).presence = s.presence := by
  obtain ⟨g, b, d, o, r, -, h⟩ := performElem_eq e s; rw [h]; rfl
@[simp] theorem performElem_rs (e : Elem) (s : State) : (performElem e s).rs = s.rs := by
  obtain ⟨g, b, d, o, r, -, h⟩ := performElem_eq e s; rw [h]; rfl
@[simp] theorem performElem_dm (e : Elem) (s : State) : (performElem e s).dm = s.dm := by
  obtain ⟨g, b, d, o, r, -, h⟩ := performElem_eq e s; rw [h]; rfl
@[simp] theorem performElem_seq (e : Elem) (s : State) : (performElem e s).seq = s.seq := by
  obtain ⟨g, b, d, o, r, -, h⟩ := performElem_eq e s; rw [h]; rfl
@[simp] theorem performElem_rom (e : Elem) (s : State) : (performElem e s).rom = s.rom := by
  obtain ⟨g, b, d, o, r, -, h⟩ := performElem_eq e s; rw [h]; rfl
@[simp] theorem performElem_romCount (e : Elem) (s : State) : (performElem e s).romCount = s.romCount := by
  obtain ⟨g, b, d, o, r, -, h⟩ := performElem_eq e s; rw [h]; rfl
@[simp] theorem performElem_rdg (e : Elem) (s : State) : (performElem e s).rdg = s.rdg := by
  obtain ⟨g, b, d, o, r, -, h⟩ := performElem_eq e s; rw [h]; rfl
@[simp] theorem performElem_rdgCount (e : Elem) (s : State) : (performElem e s).rdgCount = s.rdgCount := by
  obtain ⟨g, b, d, o, r, -, h⟩ := performElem_eq e s; rw [h]; rfl
@[simp] theorem performElem_flags (e : Elem) (s : State) : (performElem e s).flags = s.flags := by
  obtain ⟨g, b, d, o, r, -, h⟩ := performElem_eq e s; rw [h]; rfl
@[simp] theorem performElem_par (e : Elem) (s : State) : (performElem e s).par = s.par := by
  obtain ⟨g, b, d, o, r, -, h⟩ := performElem_eq e s; rw [h]; rfl
@[simp] theorem performElem_level (e : Elem) (s : State) : (performElem e s).level = s.level := by
  obtain ⟨g, b, d, o, r, -, h⟩ := performElem_eq e s; rw [h]; rfl
@[simp] theorem performElem_inbox (e : Elem) (s : State) : (performElem e s).inbox = s.inbox := by
  obtain ⟨g, b, d, o, r, -, h⟩ := performElem_eq e s; rw [h]; rfl
@[simp] theorem performElem_issue (e : Elem) (s : State) : (performElem e s).issue = s.issue := by
  obtain ⟨g, b, d, o, r, -, h⟩ := performElem_eq e s; rw [h]; rfl
@[simp] theorem performElem_ret (e : Elem) (s : State) : (performElem e s).ret = s.ret := by
  obtain ⟨g, b, d, o, r, -, h⟩ := performElem_eq e s; rw [h]; rfl
@[simp] theorem performElem_pollReads (e : Elem) (s : State) : (performElem e s).pollReads = s.pollReads := by
  obtain ⟨g, b, d, o, r, -, h⟩ := performElem_eq e s; rw [h]; rfl
@[simp] theorem performElem_ctlWait (e : Elem) (s : State) : (performElem e s).ctlWait = s.ctlWait := by
  obtain ⟨g, b, d, o, r, -, h⟩ := performElem_eq e s; rw [h]; rfl
@[simp] theorem performElem_host (e : Elem) (s : State) : (performElem e s).ports.host = s.ports.host := by
  obtain ⟨g, b, d, o, r, -, h⟩ := performElem_eq e s; rw [h]; rfl
@[simp] theorem performElem_hRdata (e : Elem) (s : State) : (performElem e s).ports.hRdata = s.ports.hRdata := by
  obtain ⟨g, b, d, o, r, -, h⟩ := performElem_eq e s; rw [h]; rfl

/-- One result element per element, at the tail of RES (R86). -/
theorem performElem_res (e : Elem) (s : State) : ∃ r, (performElem e s).res = s.res ++ [r] := by
  obtain ⟨g, b, d, o, r, -, h⟩ := performElem_eq e s
  exact ⟨r, by rw [h]; rfl⟩

end Sys2Proof.Machine
end

