-- ==== Sys2Proof/Laws/Ops.lean ====
section
/-! SUPPORT. The channels and BusController's push-then-pop: everything `engineStep` and `transact` can do. -/

namespace Sys2Proof.Machine

theorem cmdFull_iff (s : State) : cmdFull s = true ↔ s.par.fifoDepth ≤ s.cmd.length := by
  simp [cmdFull]

theorem resFull_iff (s : State) : resFull s = true ↔ s.par.fifoDepth ≤ s.res.length := by
  simp [resFull]

theorem engineFree_iff (s : State) : engineFree s = true ↔ s.eng.phase = .idle ∧ s.res.length < s.par.fifoDepth := by
  simp [engineFree, resFull]

theorem quiescent_iff (s : State) : quiescent s = true ↔ s.eng.phase = .idle ∧ s.cmd = [] ∧ s.res = [] := by
  simp [quiescent, and_assoc]

/-- Everything ENGINE's step on a whole element can do. -/
theorem engineStep_cases {s t : State} (h : engineStep s = some t) :
    ∃ e rest, s.cmd = e :: rest ∧ engineFree s = true ∧ t = performElem e { s with cmd := rest } := by
  unfold engineStep at h
  split at h
  · cases h
  · rename_i e rest hc
    split at h
    · exact ⟨e, rest, hc, ‹_›, by simpa using h.symm⟩
    · cases h

/-- ENGINE's step on a whole element moves one element from CMD to RES and changes the bus, at Level C also its registers;
nothing else (R86, R160). -/
theorem engineStep_frame {s t : State} (h : engineStep s = some t) :
    ∃ g b d o r e, s.cmd = e :: t.cmd ∧ EngineLeft s g ∧ t = setChannels g b d o t.cmd (s.res ++ [r]) s := by
  obtain ⟨e, rest, hc, -, rfl⟩ := engineStep_cases h
  obtain ⟨g, b, d, o, r, hg, hp⟩ := performElem_eq e { s with cmd := rest }
  exact ⟨g, b, d, o, r, e, by simp [hc], hg, by rw [hp]; rfl⟩

theorem popRes_cases {s : State} {x : State × Byte} (h : popRes s = some x) :
    ∃ r rest, s.res = r :: rest ∧ x = ({ s with res := rest }, r) := by
  unfold popRes at h
  split at h
  · cases h
  · rename_i r rest hr
    exact ⟨r, rest, hr, by simpa using h.symm⟩

/-- What `pushBlocking`, `popBlocking` and their chain can change: the channels, within their capacity, the bus, and at
Level C ENGINE's registers. -/
def ChannelMove (n : Int) (s t : State) : Prop :=
  ∃ g b d o c q, t = setChannels g b d o c q s ∧ EngineLeft s g ∧
    (c.length : Int) + q.length = s.cmd.length + s.res.length + n ∧
    (s.cmd.length ≤ s.par.fifoDepth → c.length ≤ s.par.fifoDepth) ∧
    (s.res.length ≤ s.par.fifoDepth → q.length ≤ s.par.fifoDepth)

theorem ChannelMove.trans {m n : Int} {s t u : State} (h : ChannelMove m s t) (h' : ChannelMove n t u) :
    ChannelMove (m + n) s u := by
  obtain ⟨g, b, d, o, c, q, rfl, hg, hl, hc, hq⟩ := h
  obtain ⟨g', b', d', o', c', q', rfl, hg', hl', hc', hq'⟩ := h'
  refine ⟨g', b', d', o', c', q', rfl, EngineLeft.trans (u := setChannels g b d o c q s) hg hg' rfl rfl, ?_, fun x => hc' (hc x), fun x => hq' (hq x)⟩
  rw [setChannels_cmd, setChannels_res] at hl'; omega

theorem engineStep_move {s t : State} (h : engineStep s = some t) : ChannelMove 0 s t := by
  obtain ⟨e, rest, hc, hf, rfl⟩ := engineStep_cases h
  obtain ⟨g, b, d, o, r, hg, hp⟩ := performElem_eq e { s with cmd := rest }
  have hfull := ((engineFree_iff s).mp hf).2
  refine ⟨g, b, d, o, rest, s.res ++ [r], by rw [hp]; rfl, hg, ?_, ?_, ?_⟩ <;> simp [hc] <;> omega

theorem pushCmd_move (e : Elem) (s : State) (h : s.cmd.length < s.par.fifoDepth) : ChannelMove 1 s (pushCmd e s) :=
  ⟨s.eng, s.bus, s.draws, s.ports.owIn, s.cmd ++ [e], s.res, rfl, .inl rfl, by simp; omega, by simp; omega, id⟩

theorem popRes_move {s t : State} {r : Byte} (h : popRes s = some (t, r)) : ChannelMove (-1) s t := by
  obtain ⟨r', rest, hr, hx⟩ := popRes_cases h
  cases hx
  exact ⟨s.eng, s.bus, s.draws, s.ports.owIn, s.cmd, rest, rfl, .inl rfl, by simp [hr]; omega, id, by simp [hr]; omega⟩

theorem pushBlocking_move {e : Elem} {s t : State} (h : pushBlocking e s = some t) : ChannelMove 1 s t := by
  unfold pushBlocking at h
  split at h
  · obtain ⟨v, hv, rfl⟩ := Option.map_eq_some_iff.mp h
    obtain ⟨g, b, d, o, r', e', hc, hg, ht⟩ := engineStep_frame hv
    obtain ⟨-, -, -, hf, -⟩ := engineStep_cases hv
    have hfull := ((engineFree_iff s).mp hf).2
    refine ⟨g, b, d, o, v.cmd ++ [e], s.res ++ [r'], by rw [ht]; rfl, hg, ?_, ?_, ?_⟩ <;> simp [hc] <;> omega
  · rename_i hf
    cases h
    exact pushCmd_move e s (by simpa [cmdFull] using hf)

theorem popBlocking_move {s t : State} {r : Byte} (h : popBlocking s = some (t, r)) : ChannelMove (-1) s t := by
  unfold popBlocking at h
  split at h
  · obtain ⟨v, hv, hp⟩ := Option.bind_eq_some_iff.mp h
    exact (engineStep_move hv).trans (popRes_move hp)
  · exact popRes_move h

/-- Everything a BusController operation can change: the channels and the bus; as many elements stay as were there
(R206). -/
theorem transact_move {e : Elem} {s t : State} {r : Byte} (h : transact e s = some (t, r)) : ChannelMove 0 s t := by
  obtain ⟨u, hu, hp⟩ := Option.bind_eq_some_iff.mp h
  exact (pushBlocking_move hu).trans (popBlocking_move hp)

/-- The two ends of a BusController operation: its element goes behind CMD, the head of RES is popped, and ENGINE has put
one result behind RES for each element it took from the head of CMD (R83, R84, R86, R206). -/
theorem transact_fifo {e : Elem} {s t : State} {r : Byte} (h : transact e s = some (t, r)) :
    ∃ m n, s.cmd ++ [e] = m ++ t.cmd ∧ s.res ++ n = r :: t.res ∧ m.length = n.length := by
  obtain ⟨u, hu, hp⟩ := Option.bind_eq_some_iff.mp h
  have hpush : ∃ m n, s.cmd ++ [e] = m ++ u.cmd ∧ u.res = s.res ++ n ∧ m.length = n.length := by
    unfold pushBlocking at hu
    split at hu
    · obtain ⟨v, hv, rfl⟩ := Option.map_eq_some_iff.mp hu
      obtain ⟨g, b, d, o, r', e', hc, -, ht⟩ := engineStep_frame hv
      exact ⟨[e'], [r'], by simp [hc], by rw [ht]; rfl, rfl⟩
    · cases hu
      exact ⟨[], [], rfl, by simp, rfl⟩
  have hpop : ∃ m n, u.cmd = m ++ t.cmd ∧ u.res ++ n = r :: t.res ∧ m.length = n.length := by
    unfold popBlocking at hp
    split at hp
    · obtain ⟨v, hv, hx⟩ := Option.bind_eq_some_iff.mp hp
      obtain ⟨g, b, d, o, r', e', hc, -, ht⟩ := engineStep_frame hv
      obtain ⟨r'', rest, hr, hx⟩ := popRes_cases hx
      cases hx
      exact ⟨[e'], [r'], hc, by rw [← hr, ht]; rfl, rfl⟩
    · obtain ⟨r'', rest, hr, hx⟩ := popRes_cases hp
      cases hx
      exact ⟨[], [], rfl, by simp [hr], rfl⟩
  obtain ⟨m, n, h1, h2, h3⟩ := hpush
  obtain ⟨m', n', h4, h5, h6⟩ := hpop
  exact ⟨m ++ m', n ++ n', by rw [h1, h4, List.append_assoc], by rw [← List.append_assoc, ← h2, h5], by simp [h3, h6]⟩

/-- Several operations in order change the channels, the bus and `DM.j`. -/
theorem sendBytes_move {bs : List Byte} {s t : State} (h : sendBytes bs s = some t) :
    ∃ u, ChannelMove 0 s u ∧ t = { u with dm := { u.dm with j := s.dm.j + BitVec.ofNat 4 bs.length } } := by
  induction bs generalizing s with
  | nil =>
    have hst : s = t := by simpa [sendBytes] using h
    subst hst
    exact ⟨s, ⟨s.eng, s.bus, s.draws, s.ports.owIn, s.cmd, s.res, rfl, .inl rfl, by omega, id, id⟩, by simp⟩
  | cons b bs ih =>
    rw [sendBytes] at h
    split at h
    · cases h
    · rename_i v r hv
      obtain ⟨w, hw, ht⟩ := ih h
      obtain ⟨g, b', d, o, c, q, rfl, hg, hl, hc, hq⟩ := transact_move hv
      obtain ⟨g2, b2, d2, o2, c2, q2, rfl, hg2, hl2, hc2, hq2⟩ := hw
      have hj : s.dm.j + BitVec.ofNat 4 (b :: bs).length = s.dm.j + 1 + BitVec.ofNat 4 bs.length := by
        rw [List.length_cons, Nat.add_comm bs.length 1, BitVec.ofNat_add, ← BitVec.add_assoc]; rfl
      refine ⟨setChannels g2 b2 d2 o2 c2 q2 s,
        ⟨g2, b2, d2, o2, c2, q2, rfl, EngineLeft.trans (u := setChannels g b' d o c q s) hg hg2 rfl rfl, ?_, fun x => hc2 (hc x), fun x => hq2 (hq x)⟩, ?_⟩
      · simp only [setChannels_cmd, setChannels_res] at hl2; omega
      · rw [ht, hj]; rfl

/-- When `transact` can be carried through (R85, R206). -/
theorem transact_isSome (e : Elem) (s : State) : (transact e s).isSome = bcReady s := by
  have hstep : ∀ u : State, (engineStep u).isSome = (!u.cmd.isEmpty && engineFree u) := by
    intro u
    unfold engineStep
    cases u.cmd <;> simp
    split <;> simp_all
  have hpop : ∀ u : State, (popBlocking u).isSome = (!u.res.isEmpty || (!u.cmd.isEmpty && engineFree u)) := by
    intro u
    unfold popBlocking
    cases hr : u.res with
    | cons r rest => simp [popRes, hr]
    | nil =>
      simp only [List.isEmpty_nil, if_true, Bool.not_true, Bool.false_or, ← hstep]
      cases hs : engineStep u with
      | none => rfl
      | some v =>
        obtain ⟨g, b, d, o, r', e', hc, -, ht⟩ := engineStep_frame hs
        have hq : v.res = u.res ++ [r'] := by rw [ht, setChannels_res]
        simp [popRes, hq, hr]
  have hne : ∀ l : List Elem, (l ++ [e]).isEmpty = false := by intro l; cases l <;> rfl
  unfold transact pushBlocking bcReady
  split
  · have := hstep s
    cases hs : engineStep s with
    | none =>
      rw [hs] at this
      simpa [Bool.and_comm] using this
    | some v =>
      obtain ⟨g, b, d, o, r', e', hc, -, ht⟩ := engineStep_frame hs
      have hq : v.res.isEmpty = false := by rw [ht]; cases s.res <;> rfl
      rw [hs] at this
      simpa [hpop, hq, Bool.and_comm] using this
  · have hf : engineFree (pushCmd e s) = engineFree s := rfl
    simp only [Option.bind_some, hpop, hf, pushCmd_res, pushCmd_cmd, hne, Bool.not_false, Bool.true_and]

/-- A BusController operation changes nothing, or the channels and the bus and what its result is used for. -/
theorem bcOp_next {e : Elem} {k : Byte → State → State} {s t : State} (h : bcOp e k s = .next t) :
    (bcReady s = false ∧ t = s) ∨ ∃ u r, transact e s = some (u, r) ∧ t = k r u := by
  unfold bcOp at h
  split at h
  · rename_i u r hu
    cases h
    exact .inr ⟨u, r, hu, rfl⟩
  · rename_i hu
    cases h
    exact .inl ⟨by rw [← transact_isSome e s, hu]; rfl, rfl⟩

/-- A BusController operation on a quiescent ENGINE: the result is that of its own element, and the channels are empty
again (R99, R206). -/
theorem transact_quiescent (e : Elem) (s : State) (hq : quiescent s = true) (hd : 0 < s.par.fifoDepth) :
    transact e s =
      some (if elemRst e then (afterReset (busReset s), zext8 (busReset s).2)
        else let x := slots (elemData e) s.framing.width 0 0#8 s; (afterXfer (elemData e) x, x.2)) := by
  obtain ⟨hp, hc, hr⟩ := (quiescent_iff s).mp hq
  have he : engineStep (pushCmd e s) = some (performElem e s) := by
    have h1 : { pushCmd e s with cmd := [] } = s := by
      obtain ⟨⟩ := s
      simp_all [pushCmd]
    have hf : engineFree (pushCmd e s) = true := (engineFree_iff _).mpr ⟨hp, by simpa [hr] using hd⟩
    have hcmd : (pushCmd e s).cmd = [e] := by simp [hc]
    rw [engineStep, hcmd]
    simp only [hf, if_true, h1]
  have hf : cmdFull s = false := by simp [cmdFull, hc, hd]
  have hres : ∀ u : State, u.res = [] → ∀ r : Byte, popRes (pushRes r u) = some (u, r) := by
    intro u hu r
    obtain ⟨⟩ := u
    simp_all [popRes, pushRes]
  simp only [transact, pushBlocking, hf, Bool.false_eq_true, if_false, Option.bind_some, popBlocking, pushCmd_res, hr,
    List.isEmpty_nil, if_true, he]
  unfold performElem
  split
  · obtain ⟨g, -, ha⟩ := afterReset_eq (busReset s)
    exact hres _ (by rw [ha]; simp [hr]) _
  · obtain ⟨g, -, ha⟩ := afterXfer_eq (elemData e) (slots (elemData e) s.framing.width 0 0#8 s)
    exact hres _ (by rw [ha]; simp [hr]) _

/-- The same of the operation as executed, with the use k of its result. -/
theorem bcOp_quiescent (e : Elem) (k : Byte → State → State) (s : State) (hq : quiescent s = true)
    (hd : 0 < s.par.fifoDepth) :
    bcOp e k s =
      if elemRst e then .next (k (zext8 (busReset s).2) (afterReset (busReset s)))
      else
        let x := slots (elemData e) s.framing.width 0 0#8 s
        .next (k x.2 (afterXfer (elemData e) x)) := by
  unfold bcOp
  rw [transact_quiescent e s hq hd]
  cases elemRst e <;> rfl

end Sys2Proof.Machine
end

