-- ==== Sys2Proof/Laws/Cycle.lean ====
section
/-! SUPPORT. Everything one tick of ENGINE can do at Level C. -/

namespace Sys2Proof.Machine

/-- What a tick may change: ENGINE's registers, the bus and what `ow_in` shows, the head of CMD, the tail of RES. -/
def TickChange (s t : State) : Prop :=
  ∃ g b d o, ∃ c q, t = setChannels g b d o c q s ∧
    (c = s.cmd ∨ s.eng.phase = .idle ∧ ∃ e, s.cmd = e :: c) ∧
    (q = s.res ∨ (s.eng.phase = .rstPush ∨ s.eng.phase = .elPush) ∧ q = s.res ++ [s.eng.isr])

theorem setEngine_change (g : Engine) (s : State) : TickChange s (setEngine g s) :=
  ⟨g, s.bus, s.draws, s.ports.owIn, s.cmd, s.res, rfl, .inl rfl, .inl rfl⟩

theorem self_change (s : State) : TickChange s s := setEngine_change s.eng s

theorem setEngine_setBus_change (g : Engine) (b : BusAgent) (d : Nat) (o : Bool) (s : State) :
    TickChange s (setEngine g (setBus b d o s)) :=
  ⟨g, b, d, o, s.cmd, s.res, rfl, .inl rfl, .inl rfl⟩

theorem timed_change {exit : State → State} {s : State} (h : TickChange s (exit s)) : TickChange s (timed exit s) := by
  unfold timed
  split
  · exact setEngine_change _ s
  · exact h

/-- ENGINE's tick changes only that. -/
theorem engineTick_change (a b : Bool) (s : State) : TickChange s (engineTick a b s) := by
  have hpush : ∀ g : Engine, (s.eng.phase = .rstPush ∨ s.eng.phase = .elPush) →
      TickChange s (setEngine g (pushRes s.eng.isr s)) := fun g hp =>
    ⟨g, s.bus, s.draws, s.ports.owIn, s.cmd, s.res ++ [s.eng.isr], rfl, .inl rfl, .inr ⟨hp, rfl⟩⟩
  unfold engineTick
  split
  · rename_i hi
    split
    · split
      · exact self_change s
      · rename_i e rest hc
        have key : ∀ g : Engine, TickChange s (setEngine g { s with cmd := rest }) := fun g =>
          ⟨g, s.bus, s.draws, s.ports.owIn, rest, s.res, rfl, .inr ⟨hi, e, hc⟩, .inl rfl⟩
        unfold startElem
        split
        · exact key _
        · exact key _
    · exact self_change s
  · exact timed_change (setEngine_change _ s)
  · refine timed_change ?_
    obtain ⟨b, d, o, h⟩ := busReset_eq s
    simp only [exitRstWait, h]
    exact setEngine_setBus_change _ _ _ _ s
  · rename_i hi
    split
    · exact hpush _ (.inl hi)
    · exact self_change s
  · exact timed_change (setEngine_change _ s)
  · refine timed_change ?_
    unfold exitSlLow
    split <;> exact setEngine_change _ s
  · refine timed_change ?_
    obtain ⟨b, d, o, h⟩ := busSlot_eq true s
    simp only [exitSlWait1, h]
    exact setEngine_setBus_change _ _ _ _ s
  · exact timed_change (setEngine_change _ s)
  · refine timed_change ?_
    obtain ⟨b, d, o, h⟩ := busSlot_eq false s
    simp only [exitSlHold0, h]
    exact setEngine_setBus_change _ _ _ _ s
  · refine timed_change ?_
    unfold exitSlRec
    simp only
    split
    · exact setEngine_change _ s
    · exact setEngine_change _ s
  · rename_i hi
    split
    · exact hpush _ (.inr hi)
    · exact self_change s

/-- ENGINE makes RES longer only if RES has room before the tick (R165, R177). -/
theorem engineTick_res_le (a b : Bool) (s : State) (hb : b = true → resFull s = false) :
    (engineTick a b s).res.length ≤ max s.res.length s.par.fifoDepth := by
  rcases Bool.eq_false_or_eq_true b with hb1 | hb0
  · obtain ⟨g, b', d, o, c, q, ht, -, hq⟩ := engineTick_change a b s
    have hroom := hb hb1
    simp only [resFull, Bool.not_eq_false', decide_eq_true_eq] at hroom
    rw [ht]
    rcases hq with rfl | ⟨-, rfl⟩
    · simp
    · simp; omega
  · have : (engineTick a b s).res = s.res := by
      obtain ⟨g, b', d, o, c, q, ht, -, hq⟩ := engineTick_change a b s
      rcases hq with rfl | ⟨hp, -⟩
      · rw [ht]; rfl
      · unfold engineTick
        rcases hp with hp | hp <;> (rw [hp]; simp [hb0])
    rw [this]; omega

end Sys2Proof.Machine
end

