-- ==== Sys2Proof/Laws/Exec.lean ====
section
/-! SUPPORT. Everything an operation can do when it answers a next state, said once. -/

namespace Sys2Proof.Machine

/-- The effect of an operation that uses the bus or computes a value: the channels within their capacity, the bus, and
`BC.presence`, `ret`, `DM.crc`, `DM.j` (which keeps its value or ends at 8). -/
def OnBus (s t : State) : Prop :=
  ∃ n u p v j c, ChannelMove n s u ∧ (j = s.dm.j ∨ j = 8) ∧
    t = { u with presence := p, ret := v, dm := { u.dm with j := j, crc := c } }

theorem ChannelMove.refl (s : State) : ChannelMove 0 s s :=
  ⟨s.eng, s.bus, s.draws, s.ports.owIn, s.cmd, s.res, rfl, .inl rfl, by omega, id, id⟩

theorem ChannelMove.onBus {n : Int} {s u : State} (h : ChannelMove n s u) : OnBus s u := by
  obtain ⟨g, b, d, o, c, q, rfl, hr⟩ := h
  exact ⟨n, _, s.presence, s.ret, s.dm.j, s.dm.crc, ⟨g, b, d, o, c, q, rfl, hr⟩, .inl rfl, rfl⟩

/-- A push of one result element after bus activity, with room for it (R86). -/
theorem performElem_move (e : Elem) (s : State) (h : s.res.length < s.par.fifoDepth) :
    ChannelMove 1 s (performElem e s) := by
  obtain ⟨g, b, d, o, r, hg, hp⟩ := performElem_eq e s
  refine ⟨g, b, d, o, s.cmd, s.res ++ [r], by rw [hp]; rfl, hg, by simp; omega, id, by simp; omega⟩

/-- E.RESET's pushed state, as `performElem` of a reset element. -/
theorem performReset_move (s : State) (h : s.res.length < s.par.fifoDepth) : ChannelMove 1 s (performReset s) := by
  simpa [performElem, elemRst] using performElem_move 0x100#9 s h

theorem performXfer_move (d : Byte) (s : State) (h : s.res.length < s.par.fifoDepth) :
    ChannelMove 1 s (performXfer d s) := by
  obtain ⟨b, b', o, hp⟩ := slots_eq d s.framing.width 0 0#8 s
  obtain ⟨g, hg, ha⟩ := afterXfer_eq d (slots d s.framing.width 0 0#8 s)
  rw [hp] at hg ha
  refine ⟨g, b, b', o, s.cmd, s.res ++ [(slots d s.framing.width 0 0#8 s).2], by rw [performXfer, ha]; rfl, hg, by simp; omega,
    id, by simp; omega⟩

theorem bcOp_move {e : Elem} {k : Byte → State → State} {s t : State} (h : bcOp e k s = .next t) :
    t = s ∨ ∃ u r, ChannelMove 0 s u ∧ t = k r u := by
  rcases bcOp_next h with ⟨-, rfl⟩ | ⟨u, r, hu, rfl⟩
  · exact .inl rfl
  · exact .inr ⟨u, r, transact_move hu, rfl⟩

/-- The nine bytes of ADDRESS_ONE are nine pushes and nine pops, and `DM.j` ends at 8. -/
theorem addressOneSend_onBus {s t : State} (h : addressOneSend s = some t) : OnBus s t := by
  unfold addressOneSend at h
  split at h
  · cases h
  · rename_i v r hv
    obtain ⟨x, hx, ht⟩ := sendBytes_move h
    obtain ⟨g, b, d, o, c, q, rfl, hg, hl, hc, hq⟩ := transact_move hv
    obtain ⟨g2, b2, d2, o2, c2, q2, rfl, hg2, hl2, hc2, hq2⟩ := hx
    refine ⟨0, setChannels g2 b2 d2 o2 c2 q2 s, s.presence, s.ret, 8, s.dm.crc,
      ⟨g2, b2, d2, o2, c2, q2, rfl, EngineLeft.trans (u := setChannels g b d o c q s) hg hg2 rfl rfl, ?_, fun x => hc2 (hc x), fun x => hq2 (hq x)⟩, .inr rfl, ?_⟩
    · simp only [setChannels_cmd, setChannels_res] at hl2; omega
    · rw [ht]; rfl

/-- Everything an operation can do. -/
theorem exec_effects {i : Instr} {s t : State} (h : exec i s = .next t) :
    t = s ∨ (i = .reinit ∧ t = coreReset s) ∨
    ((i = .discover ∨ i = .sampleAll) ∧ s.seq = .hostIdle ∧
      (t = { s with flags := .clear, seq := .discoverStart } ∨ t = { s with flags := .clear, seq := .sampleStart })) ∨
    (∃ w, (i = .setFraming w ∨ i = .eReinit w) ∧ t = engineReinit w s) ∨ OnBus s t := by
  have hbc : ∀ {e k}, (∀ r u, ChannelMove 0 s u → OnBus s (k r u)) → bcOp e k s = .next t → t = s ∨ OnBus s t := by
    intro e k hk h
    rcases bcOp_move h with rfl | ⟨u, r, hu, rfl⟩
    · exact .inl rfl
    · exact .inr (hk r u hu)
  have hdrop : ∀ {e}, bcOp e (fun _ s' => s') s = .next t → t = s ∨ OnBus s t :=
    fun h => hbc (fun _ _ hu => hu.onBus) h
  have hkeep : ∀ {e} {f : Byte → BitVec 16}, bcOp e (fun r s' => setRet (f r) s') s = .next t → t = s ∨ OnBus s t := by
    intro e f h
    refine hbc (fun r u hu => ?_) h
    obtain ⟨g, b, d, o, c, q, rfl, hr⟩ := hu
    exact ⟨0, _, s.presence, f r, s.dm.j, s.dm.crc, ⟨g, b, d, o, c, q, rfl, hr⟩, .inl rfl, rfl⟩
  have hacc : ∀ {q : Seq}, acceptCommand q s = t → t = s ∨ s.seq = .hostIdle ∧ t = { s with flags := .clear, seq := q } := by
    intro q h
    unfold acceptCommand at h
    split at h
    · exact .inr ⟨‹_›, h.symm⟩
    · exact .inl h.symm
  have hfree : engineFree s = true → s.res.length < s.par.fifoDepth := fun hf => ((engineFree_iff s).mp hf).2
  cases i with
  | nop => cases h; exact .inl rfl
  | discover =>
    simp only [exec, execDiscover, Host.Outcome.next.injEq] at h
    rcases hacc h with rfl | ⟨hi, ht⟩
    · exact .inl rfl
    · exact .inr (.inr (.inl ⟨.inl rfl, hi, .inl ht⟩))
  | sampleAll =>
    simp only [exec, execSampleAll, Host.Outcome.next.injEq] at h
    rcases hacc h with rfl | ⟨hi, ht⟩
    · exact .inl rfl
    · exact .inr (.inr (.inl ⟨.inr rfl, hi, .inr ht⟩))
  | reinit => cases h; exact .inr (.inl ⟨rfl, rfl⟩)
  | setFraming w =>
    simp only [exec, execSetFraming] at h
    split at h
    · cases h; exact .inr (.inr (.inr (.inl ⟨w, .inl rfl, rfl⟩)))
    · cases h
  | eReinit w => cases h; exact .inr (.inr (.inr (.inl ⟨w, .inr rfl, rfl⟩)))
  | reset =>
    refine (hbc (fun r u hu => ?_) h).imp id fun h => .inr (.inr (.inr h))
    obtain ⟨g, b, d, o, c, q, rfl, hr⟩ := hu
    exact ⟨0, _, !r.getLsbD 0, (zext8 (!r.getLsbD 0)).setWidth 16, s.dm.j, s.dm.crc, ⟨g, b, d, o, c, q, rfl, hr⟩, .inl rfl, rfl⟩
  | writeByte v => exact (hdrop h).imp id fun h => .inr (.inr (.inr h))
  | readByte => exact (hkeep h).imp id fun h => .inr (.inr (.inr h))
  | writeBit b => exact (hdrop h).imp id fun h => .inr (.inr (.inr h))
  | readBit => exact (hkeep h).imp id fun h => .inr (.inr (.inr h))
  | searchCmd => exact (hdrop h).imp id fun h => .inr (.inr (.inr h))
  | addressAll => exact (hdrop h).imp id fun h => .inr (.inr (.inr h))
  | startConversion => exact (hdrop h).imp id fun h => .inr (.inr (.inr h))
  | readScratchpad => exact (hdrop h).imp id fun h => .inr (.inr (.inr h))
  | addressOne =>
    simp only [exec, execAddressOne] at h
    split at h
    · cases h; exact .inr (.inr (.inr (.inr (addressOneSend_onBus ‹_›))))
    · cases h; exact .inl rfl
  | eReset =>
    simp only [exec, execEReset] at h
    split at h
    · cases h; exact .inr (.inr (.inr (.inr (performReset_move s (hfree ‹_›)).onBus)))
    · cases h; exact .inl rfl
  | eXfer8 d =>
    simp only [exec, execEXfer8] at h
    split at h
    · cases h; exact .inr (.inr (.inr (.inr (performXfer_move d s (hfree ‹_›)).onBus)))
    · cases h; exact .inl rfl
  | eXfer1 b =>
    simp only [exec, execEXfer1] at h
    split at h
    · cases h; exact .inr (.inr (.inr (.inr (performXfer_move (zext8 b) s (hfree ‹_›)).onBus)))
    · cases h; exact .inl rfl
  | crc8 bs =>
    cases h
    exact .inr (.inr (.inr (.inr ⟨0, s, s.presence, _, s.dm.j, crc8 bs, .refl s, .inl rfl, rfl⟩)))
  | tempDecode sp =>
    cases h
    exact .inr (.inr (.inr (.inr ⟨0, s, s.presence, _, s.dm.j, s.dm.crc, .refl s, .inl rfl, rfl⟩)))
  | resDecode sp =>
    cases h
    exact .inr (.inr (.inr (.inr ⟨0, s, s.presence, _, s.dm.j, s.dm.crc, .refl s, .inl rfl, rfl⟩)))

end Sys2Proof.Machine
end

