-- ==== Sys2Proof/Laws/Step.lean ====
section
/-! SUPPORT. What one step of the whole machine is made of, said once, and the one induction over it: a property that
every part keeps is kept by every step. -/

namespace Sys2Proof.Machine

/-- `onNext` answers a next state only through one. -/
theorem onNext_next {o : Host.Outcome State Fault Refusal} {f : State → Host.Outcome State Fault Refusal} {t : State}
    (h : onNext o f = .next t) : ∃ u, o = .next u ∧ f u = .next t := by
  cases o with
  | next u => exact ⟨u, rfl, h⟩
  | fault x => cases h
  | refused x => cases h

/-- SET_FRAMING answers only from a quiescent ENGINE, and is E.REINIT then (R205, R373). -/
theorem setFraming_next {w : Framing} {s t : State} (h : exec (.setFraming w) s = .next t) :
    quiescent s = true ∧ t = engineReinit w s := by
  simp only [exec, execSetFraming] at h
  split at h
  · cases h; exact ⟨‹_›, rfl⟩
  · cases h

theorem engineReinit_loadLatency (w : Framing) (s : State) :
    engineReinit w (loadLatency s) = loadLatency (engineReinit w s) := by
  have hp : (engineReinit w s).par = s.par := rfl
  unfold loadLatency
  rw [hp]
  cases s.par.ctlLatency <;> rfl

/-- What CONTROLLER's step leaves alone: ENGINE, FRAMING, the ports, the parameters, the bus and the model's own fields
but the poll count. -/
structure SameOutside (s t : State) : Prop where
  eng : t.eng = s.eng
  framing : t.framing = s.framing
  par : t.par = s.par
  level : t.level = s.level
  ports : t.ports = s.ports
  bus : t.bus = s.bus
  inbox : t.inbox = s.inbox
  issue : t.issue = s.issue
  ret : t.ret = s.ret
  ctlWait : t.ctlWait = s.ctlWait
  draws : t.draws = s.draws

/-- What follows a pop leaves all that, and the channels. -/
theorem afterPop_outside (ex : Bool) (p : Place) (r : Byte) (s : State) :
    SameOutside s (afterPop ex p r s) ∧ (afterPop ex p r s).cmd = s.cmd ∧ (afterPop ex p r s).res = s.res := by
  refine ⟨⟨?_, ?_, ?_, ?_, ?_, ?_, ?_, ?_, ?_, ?_, ?_⟩, ?_, ?_⟩ <;> cases p <;> simp only [afterPop] <;>
    (repeat' split) <;> rfl

/-- CONTROLLER's step leaves all that, appends at most one element to CMD and removes at most the head of RES. -/
theorem ctlStep_outside {ex gd : Bool} {s t : State} {w : Option Framing} (h : ctlStep ex gd s = some (w, t)) :
    SameOutside s t ∧ (t.cmd = s.cmd ∨ ∃ p, s.seq = .push p ∧ cmdFull s = false ∧ t.cmd = s.cmd ++ [placeElem p s]) ∧
      (t.res = s.res ∨ ∃ p r, s.seq = .pop p ∧ s.res = r :: t.res) := by
  unfold ctlStep at h
  split at h
  case h_10 p hp =>
    obtain ⟨x, hx, hy⟩ := Option.map_eq_some_iff.mp h
    obtain ⟨r, rest, hr, rfl⟩ := popRes_cases hx
    cases hy
    obtain ⟨ho, hc, hq⟩ := afterPop_outside ex p r { s with res := rest }
    exact ⟨⟨ho.eng, ho.framing, ho.par, ho.level, ho.ports, ho.bus, ho.inbox, ho.issue, ho.ret, ho.ctlWait, ho.draws⟩,
      .inl hc, .inr ⟨p, r, hp, by rw [hq, hr]⟩⟩
  case h_9 p hp =>
    split at h
    · cases h
    · rename_i hf
      cases h
      exact ⟨⟨rfl, rfl, rfl, rfl, rfl, rfl, rfl, rfl, rfl, rfl, rfl⟩, .inr ⟨p, hp, by simpa using hf, rfl⟩, .inl rfl⟩
  all_goals first
    | (cases h; done)
    | (cases h; exact ⟨⟨rfl, rfl, rfl, rfl, rfl, rfl, rfl, rfl, rfl, rfl, rfl⟩, .inl rfl, .inl rfl⟩)
    | (split at h <;> cases h; exact ⟨⟨rfl, rfl, rfl, rfl, rfl, rfl, rfl, rfl, rfl, rfl, rfl⟩, .inl rfl, .inl rfl⟩)

/-- CONTROLLER never makes RES longer. -/
theorem ctlStep_res_le {ex gd : Bool} {s t : State} {w : Option Framing} (h : ctlStep ex gd s = some (w, t)) :
    t.res.length ≤ s.res.length := by
  rcases (ctlStep_outside h).2.2 with hr | ⟨p, r, -, hr⟩
  · rw [hr]
  · rw [hr]; simp

/-- CONTROLLER at a tick of Level C: it waits, or makes one step; the timers count down first. -/
theorem controllerC_cases (s : State) :
    controllerC s = (none, tickTimers s) ∨
    controllerC s = (none, { tickTimers s with ctlWait := s.ctlWait - 1 }) ∨
    ∃ w t, ctlStep (s.dm.pollT == 0) (s.dm.gapT == 0) (tickTimers s) = some (w, t) ∧ controllerC s = (w, loadLatency t) := by
  unfold controllerC
  split
  · split
    · exact .inl rfl
    · rename_i w t h
      exact .inr (.inr ⟨w, t, h, rfl⟩)
  · exact .inr (.inl rfl)

/-- A host access is a CTRL write that executes its command, a read, or nothing. -/
theorem hostAccess_cases {before s t : State} (h : hostAccess before s = .next t) :
    (∃ i, exec i s = .next t) ∨ t = hostRead before before.ports.host.hAddr s ∨ t = s := by
  unfold hostAccess at h
  simp only at h
  repeat' split at h
  all_goals first
    | exact .inl ⟨_, h⟩
    | (cases h; exact .inr (.inl rfl))
    | (cases h; exact .inr (.inr rfl))

/-- The one induction over the parts of a step. -/
theorem step_keeps (P : State → Prop)
    (cycle : ∀ s h q, P s → P { s with ports := { s.ports with host := h }, inbox := q })
    (line : ∀ s o, P s → P { s with ports := { s.ports with owIn := o } })
    (issued : ∀ s, P s → P { s with issue := none })
    (read : ∀ s b a, P s → P (hostRead b a s))
    (wait : ∀ s n d, P s → P { s with ctlWait := n, draws := d })
    (timers : ∀ s, P s → P (tickTimers s))
    (executed : ∀ i s t, P s → exec i s = .next t → P t)
    (element : ∀ e rest s t, P s → s.cmd = e :: rest → engineFree s = true →
      exec (decodeElem s.framing e) { s with cmd := rest } = .next t → P t)
    (control : ∀ ex gd s t, P s → ctlStep ex gd s = some (none, t) → P t)
    (reframe : ∀ ex gd s t w, P s → ctlStep ex gd s = some (some w, t) → P (engineReinit w t))
    (tick : ∀ a b s, P s → (b = true → resFull s = false) → P (engineTick a b s))
    {s t : State} (hs : P s) (h : step s = .next t) : P t := by
  have hnext : ∀ u, P u → P (nextCycle u) := by
    intro u hu
    unfold nextCycle
    split
    · exact cycle u .idle u.inbox hu
    · exact cycle u _ _ hu
  have hlat : ∀ u, P u → P (loadLatency u) := by
    intro u hu
    unfold loadLatency
    split
    · exact wait u _ u.draws hu
    · exact wait u _ _ hu
  have hreset : ∀ u, P u → P (coreReset u) := fun u hu => executed .reinit u _ hu rfl
  have hhost : ∀ b u v, P u → hostAccess b u = .next v → P v := by
    intro b u v hu hv
    rcases hostAccess_cases hv with ⟨i, hi⟩ | rfl | rfl
    · exact executed i u v hu hi
    · exact read _ _ _ hu
    · exact hu
  have hctlT : ∀ u v, P u → controllerT u = .next v → P v := by
    intro u v hu hv
    unfold controllerT at hv
    split at hv
    · cases hv; exact hu
    · cases hv; exact control _ _ _ _ hu ‹_›
    · rename_i w u' hc
      exact (setFraming_next hv).2 ▸ reframe _ _ _ _ _ hu hc
  have hT : ∀ u v, P u → stepT u = .next v → P v := by
    intro u v hu hv
    unfold stepT at hv
    split at hv
    · exact hhost _ _ _ hu hv
    · split at hv
      · split at hv
        · exact element _ _ _ _ hu ‹_› ‹_› hv
        · exact hctlT _ _ hu hv
      · exact hctlT _ _ hu hv
  have hC : ∀ u v, P u → stepC u = .next v → P v := by
    intro u v hu hv
    unfold stepC at hv
    split at hv
    · exact executed _ _ _ hu hv
    · rcases controllerC_cases u with hc | hc | ⟨w, u', hstep, hc⟩
      · rw [hc] at hv
        refine hhost _ _ _ (tick _ _ _ (timers u hu) ?_) hv
        intro hb; exact Bool.not_eq_true' _ ▸ hb
      · rw [hc] at hv
        refine hhost _ _ _ (tick _ _ _ (wait (tickTimers u) _ u.draws (timers u hu)) ?_) hv
        intro hb; exact Bool.not_eq_true' _ ▸ hb
      · rw [hc] at hv
        cases w with
        | none =>
          refine hhost _ _ _ (tick _ _ _ (hlat u' (control _ _ _ _ (timers u hu) hstep)) ?_) hv
          intro hb
          have h1 := ctlStep_res_le hstep
          have h2 := (ctlStep_outside hstep).1.par
          simp [resFull, h2] at hb h1 ⊢
          omega
        | some w =>
          simp only at hv
          obtain ⟨x, hx, hx'⟩ := onNext_next hv
          rw [(setFraming_next hx).2, engineReinit_loadLatency] at hx'
          exact hhost _ _ _ (hlat _ (reframe _ _ _ _ _ (timers u hu) hstep)) hx'
  have hagents : ∀ u v, P u → agentsStep u = .next v → P v := by
    intro u v hu hv
    unfold agentsStep at hv
    split at hv
    · obtain ⟨x, hx, hx'⟩ := onNext_next hv
      cases hx'
      exact hnext _ (hT _ _ hu hx)
    · obtain ⟨x, hx, hx'⟩ := onNext_next hv
      cases hx'
      exact hnext _ (hC _ _ hu hx)
  unfold step machineStep at h
  obtain ⟨x, hm, hx⟩ := onNext_next h
  cases hx
  suffices P x by
    obtain ⟨o, ho⟩ := showLine_eq x
    exact ho ▸ line x o this
  clear h
  rename' hm => h
  unfold moves at h
  split at h
  · cases h
    apply hnext
    unfold resetTick
    simp only
    split
    · exact read _ _ _ (hreset s hs)
    · exact hreset s hs
  · split at h
    · unfold issueStep at h
      split at h
      · split at h
        · exact executed _ _ _ (issued s hs) h
        · exact hagents _ _ hs h
      · cases h; exact issued s hs
      · cases h
    · exact hagents _ _ hs h

/-! ### CONTROLLER's step alone -/

/-- An ENGINE that is in IDLE and finds CMD empty does nothing at its tick (R166). -/
theorem engineTick_idle (b : Bool) (s : State) (h : s.eng.phase = .idle) : engineTick false b s = s := by
  unfold engineTick; rw [h]; rfl

/-- An ENGINE that has delivered its result and finds CMD empty changes its own registers alone, whatever RES is. -/
theorem engineTick_delivered (b : Bool) (s : State) (h : s.eng.phase.delivered = true) :
    engineTick false b s = engineTick false false s ∧ ∃ e, engineTick false false s = setEngine e s := by
  unfold engineTick
  cases hp : s.eng.phase <;> simp [hp, Phase.delivered] at h
  · exact ⟨rfl, s.eng, rfl⟩
  · refine ⟨rfl, ?_⟩
    simp only [timed]
    split
    · exact ⟨_, rfl⟩
    · exact ⟨_, rfl⟩

/-- At Level T `moved f` is f. -/
theorem moved_transaction {s : State} (f : State → State) (h : s.level = .transaction) : moved f s = f s := by
  unfold moved; rw [h]

/-- At Level C `moved f` is f between the timers, the latency, ENGINE's tick and `ow_in`. -/
theorem moved_cycle {s : State} (f : State → State) (h : s.level = .cycle) :
    moved f s = showLine (engineTick false false (loadLatency (f (tickTimers s)))) := by
  unfold moved; rw [h]

/-- CONTROLLER's step at either level, with its SET_FRAMING if there is one, which needs ENGINE in IDLE: f on the core's
registers, and what `moved` adds at Level C. -/
theorem step_moved {s : State} (f : State → State) (w : Option Framing) (hs : s.controllerMoves)
    (hctl : ∀ ex gd u, u = s ∨ u = tickTimers s → (s.level = .transaction → ex = pollExhausted s ∧ gd = true) →
      (s.level = .cycle → ex = (s.dm.pollT == 0) ∧ gd = (s.dm.gapT == 0)) → ctlStep ex gd u = some (w, f u))
    (hq : w ≠ none → s.eng.phase = .idle ∧ ∀ u, u = s ∨ u = tickTimers s → (f u).cmd = [] ∧ (f u).res = []) :
    step s = .next (moved (fun u => match w with | none => f u | some v => engineReinit v (f u)) s) := by
  rcases hs with ⟨hl, ⟨hh, hi, hiss⟩, he, hc⟩ | ⟨hl, ⟨hh, hi, hiss⟩, he, hc, hw⟩
  · have h1 := hctl (pollExhausted s) true s (.inl rfl) (fun _ => ⟨rfl, rfl⟩) (fun h => by simp [hl] at h)
    obtain ⟨ho, -⟩ := ctlStep_outside h1
    have hT : stepT s = controllerT s := by
      unfold stepT
      simp only [hh, HostCycle.idle, hc, Bool.false_eq_true, if_false]
      split <;> rfl
    have hphase : (f s).eng.phase = .idle := ho.eng ▸ he
    have key : ∀ v : State, v.level = .transaction → v.ports = s.ports → v.inbox = s.inbox →
        controllerT s = .next v → step s = .next v := by
      intro v hv hp hb hcv
      unfold step machineStep moves
      simp only [hh, HostCycle.idle, hiss, Bool.false_eq_true, if_false, agentsStep, hl, hT, hcv, onNext]
      rw [nextCycle_quiet v (by rw [hb]; exact hi) (by rw [hp]; exact hh), showLine_transaction hv]
    rw [moved_transaction _ hl]
    cases w with
    | none => exact key _ (ho.level.trans hl) ho.ports ho.inbox (by unfold controllerT; rw [h1])
    | some v =>
      refine key _ (ho.level.trans hl) ho.ports ho.inbox ?_
      obtain ⟨hqc, hqr⟩ := (hq (by simp)).2 s (.inl rfl)
      unfold controllerT
      rw [h1]
      simp [exec, execSetFraming, quiescent, hphase, hqc, hqr]
  · have h1 := hctl (s.dm.pollT == 0) (s.dm.gapT == 0) (tickTimers s) (.inr rfl) (fun h => by simp [hl] at h)
      (fun _ => ⟨rfl, rfl⟩)
    obtain ⟨ho, -⟩ := ctlStep_outside h1
    have heng : (f (tickTimers s)).eng = s.eng := ho.eng
    have hr : reinitWritten s = false := by simp [reinitWritten, hh, HostCycle.idle]
    have hC : controllerC s = (w, loadLatency (f (tickTimers s))) := by unfold controllerC; rw [if_pos hw, h1]
    have hacc : ∀ u, hostAccess s u = .next u := fun u => by simp [hostAccess, hh, HostCycle.idle]
    have key : ∀ v : State, v.ports = s.ports → v.inbox = s.inbox → stepC s = .next v → step s = .next (showLine v) := by
      intro v hp hb hcv
      unfold step machineStep moves
      simp only [hh, HostCycle.idle, hiss, Bool.false_eq_true, if_false, agentsStep, hl, hcv, onNext]
      rw [nextCycle_quiet v (by rw [hb]; exact hi) (by rw [hp]; exact hh)]
    rw [moved_cycle _ hl]
    cases w with
    | none =>
      obtain ⟨h2, e, h3⟩ := engineTick_delivered (!resFull s) (loadLatency (f (tickTimers s)))
        (by rw [loadLatency_eng, heng]; exact he)
      refine key _ (by rw [h3]; simp [setEngine, ho.ports]) (by rw [h3]; simp [setEngine, ho.inbox]) ?_
      unfold stepC
      simp only [hr, hC, hc, List.isEmpty_nil, Bool.not_true, Bool.false_eq_true, if_false]
      rw [h2, hacc]
    | some v =>
      obtain ⟨hidle, hq'⟩ := hq (by simp)
      obtain ⟨hqc, hqr⟩ := hq' _ (.inr rfl)
      rw [engineTick_idle _ _ (by rw [loadLatency_eng]; rfl), ← engineReinit_loadLatency]
      refine key _ (by simp [ho.ports]) (by simp [ho.inbox]) ?_
      unfold stepC
      simp only [hr, hC, Bool.false_eq_true, if_false]
      simp [exec, execSetFraming, quiescent, heng, hidle, hqc, hqr, onNext, hacc]

end Sys2Proof.Machine
end

