-- ==== Sys2Proof/Laws/Host.lean ====
section
/-! SUPPORT. A tick of Level C in two parts: what CONTROLLER and ENGINE do, which does not see the host inputs (R329: each
reads the state before the tick), and the host access after it. -/

namespace Sys2Proof.Machine

/-- s with other host inputs. -/
def setHost (h : HostCycle) (s : State) : State := { s with ports := { s.ports with host := h } }

theorem sampleLevel_setHost (h : HostCycle) (s : State) :
    sampleLevel (setHost h s) = (setHost h (sampleLevel s).1, (sampleLevel s).2) := by
  unfold sampleLevel
  have hb : (setHost h s).bus = s.bus := rfl
  rw [hb]
  split <;> rfl

theorem busReset_setHost (h : HostCycle) (s : State) :
    busReset (setHost h s) = (setHost h (busReset s).1, (busReset s).2) := by
  unfold busReset
  have hb : (setHost h s).bus = s.bus := rfl
  rw [hb]
  split
  · rfl
  · exact sampleLevel_setHost h s

theorem busSlot_setHost (h : HostCycle) (m : Bool) (s : State) :
    busSlot m (setHost h s) = (setHost h (busSlot m s).1, (busSlot m s).2) := by
  unfold busSlot
  have hb : (setHost h s).bus = s.bus := rfl
  rw [hb]
  split
  · rfl
  · split
    · exact sampleLevel_setHost h s
    · rfl

theorem timed_setHost {h : HostCycle} {s : State} {f : State → State} (hf : f (setHost h s) = setHost h (f s)) :
    timed f (setHost h s) = setHost h (timed f s) := by
  unfold timed
  have he : (setHost h s).eng = s.eng := rfl
  rw [he]
  split
  · rfl
  · exact hf

/-- ENGINE's tick does not see the host inputs. -/
theorem engineTick_setHost (h : HostCycle) (p q : Bool) (s : State) :
    engineTick p q (setHost h s) = setHost h (engineTick p q s) := by
  have he : (setHost h s).eng = s.eng := rfl
  have hc : (setHost h s).cmd = s.cmd := rfl
  have hf : (setHost h s).framing = s.framing := rfl
  unfold engineTick
  rw [he, hc]
  cases s.eng.phase <;> simp only
  case idle =>
    split
    · split
      · rfl
      · unfold startElem; split <;> rfl
    · rfl
  case rstWait => exact timed_setHost (by unfold exitRstWait; rw [busReset_setHost]; rfl)
  case slLow => exact timed_setHost (by unfold exitSlLow; rw [he]; split <;> rfl)
  case slWait1 => exact timed_setHost (by unfold exitSlWait1; rw [busSlot_setHost]; rfl)
  case slHold0 => exact timed_setHost (by unfold exitSlHold0; rw [busSlot_setHost]; rfl)
  case slRec => exact timed_setHost (by unfold exitSlRec; rw [he, hf]; dsimp only; split <;> rfl)
  case rstPush => split <;> rfl
  case elPush => split <;> rfl
  all_goals exact timed_setHost rfl

theorem afterPop_setHost (h : HostCycle) (ex : Bool) (p : Place) (r : Byte) (s : State) :
    afterPop ex p r (setHost h s) = setHost h (afterPop ex p r s) := by
  have hr : (setHost h s).rs = s.rs := rfl
  have hd : (setHost h s).dm = s.dm := rfl
  cases p <;> simp only [afterPop, hr, hd] <;> (repeat' split) <;> rfl

/-- CONTROLLER's step does not see the host inputs. -/
theorem ctlStep_setHost (h : HostCycle) (ex gd : Bool) (s : State) :
    ctlStep ex gd (setHost h s) = (ctlStep ex gd s).map fun x => (x.1, setHost h x.2) := by
  have hs : (setHost h s).seq = s.seq := rfl
  have hr : (setHost h s).res = s.res := rfl
  have hf : cmdFull (setHost h s) = cmdFull s := rfl
  unfold ctlStep
  rw [hs]
  cases s.seq <;> simp only
  case push p =>
    rw [hf]
    split
    · rfl
    · cases p <;> rfl
  case pop p =>
    unfold popRes
    rw [hr]
    cases s.res with
    | nil => rfl
    | cons r rest => exact congrArg some (Prod.ext rfl (afterPop_setHost h ex p r { s with res := rest }))
  case pollGap => split <;> rfl
  all_goals rfl

theorem controllerC_setHost (h : HostCycle) (s : State) :
    controllerC (setHost h s) = ((controllerC s).1, setHost h (controllerC s).2) := by
  have hw : (setHost h s).ctlWait = s.ctlWait := rfl
  have hd : (setHost h s).dm = s.dm := rfl
  have ht : tickTimers (setHost h s) = setHost h (tickTimers s) := rfl
  have hl : ∀ u : State, loadLatency (setHost h u) = setHost h (loadLatency u) := fun u => by
    unfold loadLatency
    have hp : (setHost h u).par = u.par := rfl
    rw [hp]
    split <;> rfl
  unfold controllerC
  rw [hw, hd, ht, ctlStep_setHost]
  split
  · cases ctlStep (s.dm.pollT == 0) (s.dm.gapT == 0) (tickTimers s) with
    | none => rfl
    | some x => obtain ⟨w, v⟩ := x; simp [hl]
  · rfl

/-- What CONTROLLER and ENGINE do at a tick of Level C. -/
def agentsTick (s : State) : Host.Outcome State Fault Refusal :=
  match controllerC s with
  | (none, v) => .next (engineTick (!s.cmd.isEmpty) (!resFull s) v)
  | (some w, v) => exec (.setFraming w) v

/-- The agents' part of a tick does not see the host inputs. -/
theorem agentsTick_setHost (h : HostCycle) (s : State) :
    agentsTick (setHost h s) = onNext (agentsTick s) fun t => .next (setHost h t) := by
  have hc : (setHost h s).cmd = s.cmd := rfl
  have hf : resFull (setHost h s) = resFull s := rfl
  unfold agentsTick
  rw [controllerC_setHost, hc, hf]
  obtain ⟨o, v⟩ := controllerC s
  cases o with
  | none => exact congrArg _ (engineTick_setHost h _ _ v)
  | some w =>
    have hq : quiescent (setHost h v) = quiescent v := rfl
    simp only [exec, execSetFraming, hq]
    split <;> rfl

/-- A step at Level C in which the core's agents move: their tick, then the host access, then the next inputs; `ow_in` shows
the line. A REINIT write is the other case. -/
theorem step_cycle {s : State} (ha : s.agentsMove) (hl : s.level = .cycle) (hr : reinitWritten s = false) :
    step s = onNext (agentsTick s) fun v => onNext (hostAccess s v) fun t => .next (showLine (nextCycle t)) := by
  have hC : stepC s = onNext (agentsTick s) (hostAccess s) := by
    unfold stepC agentsTick
    rw [hr]
    obtain ⟨o, v⟩ := controllerC s
    cases o <;> rfl
  unfold step machineStep moves
  simp only [ha.1, ha.2, agentsStep, hl, hC, Bool.false_eq_true, if_false]
  cases agentsTick s with
  | next v => cases h : hostAccess s v <;> simp [onNext, h]
  | fault x => rfl
  | refused x => rfl

end Sys2Proof.Machine
end

