-- ==== Sys2Proof/Laws/PerInstr.lean ====
section
/-! SUPPORT. Statements about every operation as syntax, one lemma per constructor. -/

namespace Sys2Proof.Laws

/-- The number of bytes each target takes (R120, R121, R125 to R127, R131); CRC8 takes any number (R220). -/
def targetBytes : Target → Option Nat
  | .host => some 4
  | .bc _ => some 2
  | .bcFraming => some 1
  | .eng _ => some 2
  | .engSideband => some 1
  | .wire => some 1
  | .fnCrc8 => none
  | .fnTemp => some 9
  | .fnRes => some 9

/-- The encoder gives a well-formed operation as many bytes as its target takes. -/
def EncodedLength.Statement (i : Instr) : Prop :=
  i.wellFormed = true → ∀ n, targetBytes (encode i).1 = some n → (encode i).2.length = n

theorem EncodedLength.nop : EncodedLength.Statement .nop := fun _ _ h => Option.some.inj h
theorem EncodedLength.discover : EncodedLength.Statement .discover := fun _ _ h => Option.some.inj h
theorem EncodedLength.sampleAll : EncodedLength.Statement .sampleAll := fun _ _ h => Option.some.inj h
theorem EncodedLength.reinit : EncodedLength.Statement .reinit := fun _ _ h => Option.some.inj h
theorem EncodedLength.reset : EncodedLength.Statement .reset := fun _ _ h => Option.some.inj h
theorem EncodedLength.writeByte (v : Byte) : EncodedLength.Statement (.writeByte v) := fun _ _ h => Option.some.inj h
theorem EncodedLength.readByte : EncodedLength.Statement .readByte := fun _ _ h => Option.some.inj h
theorem EncodedLength.writeBit (b : Bool) : EncodedLength.Statement (.writeBit b) := fun _ _ h => Option.some.inj h
theorem EncodedLength.readBit : EncodedLength.Statement .readBit := fun _ _ h => Option.some.inj h
theorem EncodedLength.setFraming (w : Framing) : EncodedLength.Statement (.setFraming w) :=
  fun _ _ h => Option.some.inj h
theorem EncodedLength.eReset : EncodedLength.Statement .eReset := fun _ _ h => Option.some.inj h
theorem EncodedLength.eXfer8 (d : Byte) : EncodedLength.Statement (.eXfer8 d) := fun _ _ h => Option.some.inj h
theorem EncodedLength.eXfer1 (b : Bool) : EncodedLength.Statement (.eXfer1 b) := fun _ _ h => Option.some.inj h
theorem EncodedLength.eReinit (w : Framing) : EncodedLength.Statement (.eReinit w) := fun _ _ h => Option.some.inj h
theorem EncodedLength.searchCmd : EncodedLength.Statement .searchCmd := fun _ _ h => Option.some.inj h
theorem EncodedLength.addressOne : EncodedLength.Statement .addressOne := fun _ _ h => Option.some.inj h
theorem EncodedLength.addressAll : EncodedLength.Statement .addressAll := fun _ _ h => Option.some.inj h
theorem EncodedLength.startConversion : EncodedLength.Statement .startConversion := fun _ _ h => Option.some.inj h
theorem EncodedLength.readScratchpad : EncodedLength.Statement .readScratchpad := fun _ _ h => Option.some.inj h
theorem EncodedLength.crc8 (s : List Byte) : EncodedLength.Statement (.crc8 s) := fun _ _ h => by cases h
theorem EncodedLength.tempDecode (sp : List Byte) : EncodedLength.Statement (.tempDecode sp) := fun hw _ h => by
  cases h
  exact eq_of_beq hw
theorem EncodedLength.resDecode (sp : List Byte) : EncodedLength.Statement (.resDecode sp) := fun hw _ h => by
  cases h
  exact eq_of_beq hw

end Sys2Proof.Laws
end

