-- ==== Sys2Proof/Tests/Slice0.lean ====
section
/-! SUPPORT. Tests on fixed values, their results taken from spec/95_test_vectors.md and the rules cited, and a witness
for the hypotheses of each statement. -/

namespace Sys2Proof.Tests

open Sys2Proof Sys2Proof.Machine

/-! ### Helpers -/

/-- The outcome is a next state with property p. -/
def after (o : Host.Outcome State Fault Refusal) (p : State → Bool) : Bool :=
  match o with
  | .next t => p t
  | .fault _ => false
  | .refused _ => false

/-- Level T, reset values, a line with the given levels at its sample instants. -/
def lineT (w : Framing) (levels : List Bool) : State :=
  { State.resetWith .default .transaction (.script levels) with framing := w }

/-- Short timing parameters, CONTROLLER without latency. -/
def shortParams : Params := { Params.default with
  tRstl := 3, tPds := 2, tRstrec := 2, tLow := 1, tSmp := 1, tSlot := 4, tRec := 1, ctlLatency := some 0 }

/-- Level C, reset values, short timing. -/
def lineC (w : Framing) (levels : List Bool) : State :=
  { State.resetWith shortParams .cycle (.script levels) with framing := w }

/-- CONTROLLER at a place with results waiting, Level T, reference bus without devices. -/
def placeT (q : Seq) (res : List Byte) : State :=
  { State.resetWith .default .transaction (.reference []) with seq := q, framing := q.framing, res := res }

/-- The same at Level C. -/
def placeC (q : Seq) (res : List Byte) : State :=
  { State.resetWith shortParams .cycle (.reference []) with seq := q, framing := q.framing, res := res }

/-- A host write of `CTRL`. -/
def ctrlWrite (w : HWord) : HostCycle := { rst := false, hSel := true, hWe := true, hAddr := 0, hWdata := w }

/-- A host read. -/
def hostReadOf (a : BitVec 10) : HostCycle := { rst := false, hSel := true, hWe := false, hAddr := a, hWdata := 0 }

def withHost (h : HostCycle) (s : State) : State := { s with ports := { s.ports with host := h } }

/-- A device of the reference bus, RomCode A of the spec. -/
def codeA : RomCode := 0x8322110F1E64FF28

def padA : List Byte := [0x90, 0x01, 0x4B, 0x46, 0x7F, 0xFF, 0x0C, 0x10, 0x33]

def busA (conv : Nat) : BusAgent := .reference [Device.init codeA padA conv]

/-! ### WellFormed: an ill-formed term for each check -/

theorem test_tempDecode_needs_nine_bytes : (Instr.tempDecode [0, 0, 0, 0, 0, 0, 0, 0]).wellFormed = false := by decide
theorem test_resDecode_needs_nine_bytes :
    (Instr.resDecode [0, 0, 0, 0, 0, 0, 0, 0, 0, 0]).wellFormed = false := by decide
theorem test_decoder_refuses_eight_bytes : decode .fnTemp [0, 0, 0, 0, 0, 0, 0, 0] = .error .wrongLength := by decide

/-! ### Decoding: words written out from R121, R123 to R127 -/

theorem test_decode_host :                                  -- V-H3, R126
    decode .host [0x04, 0x00, 0x00, 0x00] = .ok .nop ∧ decode .host [0xF1, 0xFF, 0xFF, 0xFF] = .ok .discover ∧
    decode .host [0x02, 0x00, 0x00, 0x00] = .ok .sampleAll ∧ decode .host [0x03, 0x00, 0xCD, 0xAB] = .ok .reinit := by
  decide
theorem test_decode_bc_bytes :                              -- R120, R200 to R202: 0x100, 0x0CC, 0x0FF
    decode (.bc .byteDrop) [0x00, 0x01] = .ok .reset ∧ decode (.bc .byteDrop) [0xCC, 0x00] = .ok (.writeByte 0xCC) ∧
    decode (.bc .byteKeep) [0xFF, 0x00] = .ok .readByte ∧
    decode (.bc .byteKeep) [0xFE, 0x00] = .error .otherElement := by decide
theorem test_decode_bc_bits :                               -- R203 to R205: 0x000, 0x001, {1,1}
    decode (.bc .bitDrop) [0x00, 0x00] = .ok (.writeBit false) ∧ decode (.bc .bitKeep) [0x01, 0x00] = .ok .readBit ∧
    decode .bcFraming [0x03] = .ok (.setFraming .w1) ∧ decode .bcFraming [0x02] = .ok (.setFraming .w8) := by decide
theorem test_decode_engine :                                -- V-E4, V-E13, V-E14, R123 to R125
    decode (.eng .w1) [0xA5, 0x01] = .ok .eReset ∧ decode (.eng .w8) [0xF0, 0x00] = .ok (.eXfer8 0xF0) ∧
    decode (.eng .w1) [0xFF, 0x00] = .ok (.eXfer1 true) ∧ decode (.eng .w1) [0xFE, 0x00] = .ok (.eXfer1 false) ∧
    decode (.eng .w8) [0x00, 0x02] = .error .bitAboveFormat ∧ decode .engSideband [0x03] = .ok (.eReinit .w1) ∧
    decode .engSideband [0x01] = .error .efrIdle := by decide
theorem test_decode_wire :                                  -- R127
    decode .wire [0xF0] = .ok .searchCmd ∧ decode .wire [0x55] = .ok .addressOne ∧ decode .wire [0xCC] = .ok .addressAll ∧
    decode .wire [0x44] = .ok .startConversion ∧ decode .wire [0xBE] = .ok .readScratchpad ∧
    decode .wire [0x33] = .error .noWireByte := by decide
theorem test_decode_functions :
    decode .fnCrc8 [] = .ok (.crc8 []) ∧ decode .fnTemp padA = .ok (.tempDecode padA) ∧
    decode .fnRes padA = .ok (.resDecode padA) := by decide
theorem test_table_words :
    decodeTableWord 32 0xFFFFFFF1 = some .discover ∧ decodeTableWord 16 0x1A5 = some .eReset ∧
    decodeTableWord 16 0x100 = some .reset ∧ decodeTableWord 16 0x0FF = some .readByte ∧
    decodeTableWord 16 0x001 = some .readBit ∧ decodeTableWord 16 0x000 = some (.writeBit false) ∧
    decodeTableWord 8 3 = some (.setFraming .w1) ∧ decodeTableWord 8 0xBE = some .readScratchpad ∧
    decodeTableWord 0 0 = some (.crc8 []) ∧ decodeTableWord 16 0x200 = none := by decide

theorem test_numbers_that_are_no_table_word :               -- log 1: a low byte 0xF0 does not make them SEARCH_CMD
    decodeTableWord 12 0x0F0 = none ∧ decodeTableWord 8 0x1F0 = none ∧
    step (State.reset.withFetchWord 12 0x0F0) = .refused (.undecodable .wrongLength) ∧
    step (State.reset.withFetchWord 8 0x1F0) = .refused (.undecodable .wrongLength) := ⟨rfl, rfl, rfl, rfl⟩

/-! ### ENGINE at Level T: V-E -/

theorem test_VE1_reset_empty_bus : after (exec .eReset (placeT .hostIdle [])) (fun t => t.res == [0x01]) = true := by
  decide
theorem test_VE3_reset_in_bit_framing :
    after (exec .eReset { lineT .w1 [] with bus := busA 0 }) (fun t => t.res == [0x00]) = true := by decide
theorem test_VE5_write_reads_back :
    after (exec (.eXfer8 0xCC) (lineT .w8 [true, true, true, true])) (fun t => t.res == [0xCC]) = true := by decide
theorem test_VE9_first_bit_is_bit_0 :
    after (exec (.eXfer8 0xFF) (lineT .w8 [true, false, false, false, false, false, false, false]))
      (fun t => t.res == [0x01]) = true := by decide
theorem test_VE11_one_bit_pulled_low :
    after (exec (.eXfer1 true) (lineT .w1 [false])) (fun t => t.res == [0x00]) = true := by decide
theorem test_VE12_zero_slot :
    after (exec (.eXfer1 false) (lineT .w1 [true])) (fun t => t.res == [0x00] && t.bus == .script [true]) = true := by
  decide
theorem test_VE16_reinit :
    after (exec (.eReinit .w1) { lineT .w8 [] with cmd := [0x100], res := [0x01] })
      (fun t => t.framing == .w1 && t.cmd == [] && t.res == [] && t.eng.phase == .idle) = true := by decide
theorem test_VE17_results_in_order :
    after (run 2 { State.resetWith .default .transaction (busA 0) with cmd := [0x100, 0x0CC] })
      (fun t => t.res == [0x00, 0xCC] && t.cmd == []) = true := by decide

/-! ### ENGINE at Level C: V-T -/

theorem test_VT1_load_and_first_slot :                      -- ticks 972 and 973 of V-T1
    let s := { State.resetWith .default .cycle (.reference []) with cmd := [0x0F0] }
    (engineTicks 1 s).eng = ⟨.slLow, 1, 0x78, 0, 0, false, true⟩ ∧
    (engineTicks 2 s).eng = ⟨.slHold0, 59, 0x78, 0, 0, false, true⟩ := by decide
theorem test_VT2_one_bit_element :                          -- ticks 0, 1, 16, 60, 65 and 66 of V-T2
    let s := { State.resetWith .default .cycle (.script [true]) with framing := .w1, cmd := [0x001] }
    (engineTicks 1 s).eng.drive = true ∧ (engineTicks 2 s).eng.drive = false ∧ (engineTicks 17 s).eng.isr = 1 ∧
    (engineTicks 61 s).eng.phase = .slRec ∧ (engineTicks 66 s).eng.phase = .elPush ∧ (engineTicks 67 s).res = [0x01] := by
  decide
theorem test_VT3_push_sees_the_channel_before_the_tick :
    engineTick false false { lineC .w1 [] with
      eng := ⟨.elPush, 1, 0, 1, 1, true, false⟩, res := [0, 0, 0] } =
    { lineC .w1 [] with eng := ⟨.elPush, 1, 0, 1, 1, true, false⟩, res := [0, 0, 0] } := by decide

theorem test_R103_line_is_low_while_driven :
    after (step { lineC .w8 [true] with cmd := [0x100] }) (fun t => t.eng.drive && !t.ports.owIn) = true ∧
    after (step { lineC .w8 [] with bus := busA 0, eng := ⟨.rstLow, 1, 0, 0, 0, false, true⟩ })
      (fun t => t.eng.phase == .rstWait && !t.ports.owIn) = true := by decide
theorem test_R58_bus_state :
    busState .idle = .idle ∧ busState .rstRec = .resetting ∧ busState .slRec = .transferring ∧
      busState .elPush = .transferring := by decide
theorem test_address_one_waits_for_all_nine_bytes :         -- log 4: two results waiting, ENGINE not in IDLE
    issueReady .addressOne { lineC .w8 [] with eng := ⟨.rstRec, 3, 0, 0, 0, false, false⟩, res := [0, 0] } = false ∧
    issueReady .addressOne (lineC .w8 []) = true := by decide

/-! ### BusController and the protocol bytes: V-B -/

theorem test_VB1_reset_empty_bus :
    after (exec .reset (placeT .hostIdle [])) (fun t => !t.presence && t.ret == 0 && t.res == []) = true := by decide
theorem test_VB2_reset_device_present :
    after (exec .reset { State.reset with bus := busA 0 }) (fun t => t.presence && t.ret == 1) = true := by decide
theorem test_VB5_write_is_not_compared :
    after (exec (.writeByte 0xCC) (lineT .w8 [false, false, false, false])) (fun t => t.res == [] && t.flags == .clear) =
      true := by decide
theorem test_VB6_read_byte :                                -- 0x90 is 0, 0, 0, 0, 1, 0, 0, 1 in time order
    after (exec .readByte (lineT .w8 [false, false, false, false, true, false, false, true])) (fun t => t.ret == 0x90) =
      true := by decide
theorem test_VB8_write_bit : after (exec (.writeBit false) (lineT .w1 [])) (fun t => t.res == [] && t.cmd == []) = true :=
  by decide
theorem test_VB10_read_bit : after (exec .readBit (lineT .w1 [false])) (fun t => t.ret == 0) = true := by decide
theorem test_VB12_set_framing :
    after (exec (.setFraming .w1) (lineT .w8 [])) (fun t => t.framing == .w1) = true := by decide
theorem test_U3_set_framing_refused :
    exec (.setFraming .w1) { lineT .w8 [] with cmd := [0x0FF] } = .refused .framingNotQuiescent := by rfl
theorem test_VB13_byte_in_bit_framing :
    after (exec (.writeByte 0xF0) (lineT .w1 [true])) (fun t => t.bus == .script [true]) = true := by decide
theorem test_VB14_read_bit_in_byte_framing :
    after (exec .readBit (lineT .w8 [true, false])) (fun t => t.ret == 1 && t.bus == .script [false]) = true := by decide
theorem test_wire_bytes :                                   -- the devices see the byte: R108, R111
    after (exec .searchCmd { State.reset with bus := .reference [(Device.init codeA padA 0).onReset] })
      (fun t => t.bus == .reference [{ Device.init codeA padA 0 with state := .search }]) = true ∧
    after (exec .addressAll { State.reset with bus := .reference [(Device.init codeA padA 0).onReset] })
      (fun t => t.bus == .reference [{ Device.init codeA padA 0 with state := .funcCmd }]) = true := by decide
theorem test_function_bytes :
    after (exec .startConversion { State.reset with bus := .reference [{ Device.init codeA padA 21 with state := .funcCmd }] })
      (fun t => t.bus == .reference [{ Device.init codeA padA 21 with state := .conv, busy := 21 }]) = true ∧
    after (exec .readScratchpad { State.reset with bus := .reference [{ Device.init codeA padA 0 with state := .funcCmd }] })
      (fun t => t.bus == .reference [{ Device.init codeA padA 0 with state := .readSp }]) = true := by decide
theorem test_address_one_bytes : romBytes codeA = [0x28, 0xFF, 0x64, 0x1E, 0x0F, 0x11, 0x22, 0x83] := by decide
theorem test_address_one_selects_the_device :               -- R267, R110
    after (exec .addressOne { State.reset with
      bus := .reference [(Device.init codeA padA 0).onReset], rom := codeA :: List.replicate 7 0 })
      (fun t => t.bus == .reference [{ Device.init codeA padA 0 with state := .funcCmd, i := 64 }] && t.dm.j == 8) =
      true := by decide

/-! ### CRC8 and the decoder: V-C, V-D1 -/

theorem test_VC1_steps :
    crcStep 0x00 false = 0x00 ∧ crcStep 0x00 true = 0x8C ∧ crcStep 0x8C false = 0x46 ∧ crcStep 0x01 true = 0x00 ∧
    crcStep 0x01 false = 0x8C ∧ crcStep 0xFF true = 0x7F ∧ crcStep 0xFF false = 0xF3 := by decide
theorem test_R221_equivalent_form : ∀ (acc : Byte) (b : Bool),
    crcStep acc b = (acc >>> 1) ^^^ (if acc.getLsbD 0 ^^ b then 0x8C#8 else 0#8) := by decide
theorem test_VC_bytes :                                     -- V-C2, V-C3, V-C5, V-C6, V-C8
    crc8 [0x01] = 0x5E ∧ crc8 [0xFF] = 0x35 ∧ crc8 [0x01, 0x00] = 0xC4 ∧ crc8 [] = 0x00 ∧
    crc8 [0x28, 0xFF, 0x64, 0x1E, 0x0F, 0x11, 0x22] = 0x83 ∧ crc8 padA = 0x00 ∧
    crc8 [0x5E, 0xFF, 0x4A, 0x46, 0x7F, 0xFF, 0x0C, 0x10, 0x6A] = 0x3D := by decide +kernel
theorem test_crc8_completes :
    after (exec (.crc8 [0x01]) State.reset) (fun t => t.ret == 0x5E && t.dm.crc == 0x5E) = true := by decide
theorem test_VD1_temperature :
    after (exec (.tempDecode [0x5E, 0xFF, 0x4B, 0x46, 0x7F, 0xFF, 0x0C, 0x10, 0x6A]) State.reset)
      (fun t => t.ret == 0xFF5E && t.ret.toInt == -162) = true := by decide
theorem test_VD1_resolution :
    after (exec (.resDecode [0x91, 0x01, 0x4B, 0x46, 0x5F, 0xFF, 0x0C, 0x10, 0xE0]) State.reset)
      (fun t => t.ret == 2) = true := by decide
theorem test_VD1_reading_words :
    readingWord (readingOf padA) = 0x40030190 ∧
    readingWord (readingOf [0xD0, 0x07, 0x4B, 0x46, 0x3F, 0xFF, 0x0C, 0x10, 0x14]) = 0x400107D0 ∧
    readingWord (readingOf [0x5E, 0xFF, 0x4A, 0x46, 0x7F, 0xFF, 0x0C, 0x10, 0x6A]) = 0x80000000 := by decide +kernel

/-! ### Host commands and reset: V-H -/

theorem test_VH2_nop :
    after (exec .nop { State.reset with flags := { Flags.clear with crcMismatch := true }, presence := true })
      (fun t => statusWord t == 0x42) = true := by decide
theorem test_VH4_discover_is_busy_at_once :
    after (step (withHost (ctrlWrite 0xFFFFFFF1) State.reset)) (fun t => statusWord t == 1 && t.seq == .discoverStart) =
      true := by decide
theorem test_VH4_sample_all_while_busy :
    after (step (withHost (ctrlWrite 2) (placeT (.push .readB1) []))) (fun t => t == placeT (.push .readB1) []) = true := by
  decide
theorem test_VH5_flags_cleared :
    after (exec .sampleAll { State.reset with flags := { Flags.clear with busFault := true } })
      (fun t => t.flags == .clear && t.seq == .sampleStart) = true := by decide
theorem test_VH7_reinit_cuts_the_pulse :
    after (step (withHost (ctrlWrite 0xABCD0003) { lineC .w8 [] with
      seq := .pop .passReset, eng := ⟨.rstLow, 3, 0, 0, 0, false, true⟩ }))
      (fun t => !t.eng.drive && t.eng.phase == .idle && t.seq == .hostIdle && statusWord t == 0) = true := by decide
theorem test_VH8_reserved_words :
    hostWord State.reset 0x004 0 = 0 ∧ hostWord State.reset 0x3FF 0 = 0 ∧
    hostWord { State.reset with romCount := 1, rom := [5, 7, 0, 0, 0, 0, 0, 0] } 0x102 0 = 0 ∧
    hostWord { State.reset with romCount := 1, rom := [5, 7, 0, 0, 0, 0, 0, 0] } 0x100 0 = 5 := by decide

/-! ### The search and SAMPLE_ALL: pieces of V-S and V-D -/

theorem test_VS1_empty_bus_is_a_bus_fault :
    after (run 4 { State.resetWith .default .transaction (.reference []) with seq := .discoverStart })
      (fun t => statusWord t == 0x10 && t.seq == .hostIdle && t.romCount == 0) = true := by decide
theorem test_P1_replay_below_the_marker :                   -- pass 3: position 8 replays 1, position 9 takes 1
    collisionDir { Search.reset with i := 8, last := some 9, rom := 0x100 } = true ∧
    collisionDir { Search.reset with i := 9, last := some 9 } = true ∧
    collisionDir { Search.reset with i := 10, last := some 9, rom := 0x400 } = false ∧
    collisionDir { Search.reset with i := 0, last := none } = false := by decide
theorem test_VD6_sample_all_without_presence :
    after (step (placeT (.pop .sampleReset) [0x01]))
      (fun t => t.seq == .hostIdle && statusWord t == 0x10 && t.rdgCount == 0) = true := by decide
theorem test_VD3_mixed_byte_is_not_complete :
    after (step (placeT (.pop .pollRead) [0xE0])) (fun t => t.seq == .pollGap && t.flags == .clear) = true ∧
    after (step (placeT (.pop .pollRead) [0xFF])) (fun t => t.seq == .hostIdle && t.dm.k == 0) = true := by decide

/-! ### Witnesses: concrete states that meet the hypotheses of the statements -/

theorem witness_round_trip : (Instr.tempDecode padA).wellFormed = true := by decide
theorem witness_efr_without_reinit :
    let s : State := { State.reset with issue := some (.engSideband, [0x01]) }
    s.ports.host.rst = false ∧ s.issue = some (.engSideband, [0x01]) ∧ (0x01#8).toNat < 2 := by decide
theorem witness_issue_ready :
    decode (.bc .byteDrop) [0xCC, 0x00] = .ok (.writeByte 0xCC) ∧
    issueReady (.writeByte 0xCC) { State.reset with issue := some (.bc .byteDrop, [0xCC, 0x00]) } = true := by decide
theorem witness_issue_waits :
    issueReady (.writeByte 0xCC) { State.reset with
      cmd := [0, 0, 0, 0], res := [0, 0, 0, 0], issue := some (.bc .byteDrop, [0xCC, 0x00]) } = false := by decide
theorem witness_issue_undecodable : decode .wire [0x33] = .error .noWireByte ∧ DecodeError.noWireByte ≠ .efrIdle := by
  decide
theorem witness_host_command :
    let s := withHost (ctrlWrite 3) (placeT .readAll [])
    s.agentsMove ∧ s.level = .transaction ∧ ctrlWritten s = true ∧
      decode .host (natBytes 4 s.ports.host.hWdata.toNat) = .ok .reinit := by decide
theorem witness_host_command_at_a_tick :                    -- R302, R303: accepted in HOST_IDLE, with flags left from before
    let s := withHost (ctrlWrite 1) { placeC .hostIdle [] with flags := { Flags.clear with busFault := true } }
    let c := withHost (ctrlWrite 2) (placeC .hostIdle [])
    (s.agentsMove ∧ s.level = .cycle ∧ ctrlWritten s = true ∧ ctrlOp s = 1 ∧
      after (step s) (fun t => t.seq == .discoverStart && t.flags == .clear) = true) ∧
    (c.agentsMove ∧ ctrlWritten c = true ∧ ctrlOp c = 2 ∧ after (step c) (fun t => t.seq == .sampleStart) = true) := by
  decide
theorem witness_head_element :
    let s := { lineT .w1 [true] with cmd := [0x0FE, 0x100] }
    s.agentsMove ∧ s.level = .transaction ∧ s.ports.host.hSel = false ∧ engineFree s = true ∧
      decode (.eng s.framing) (natBytes 2 (0x0FE#9).toNat) = .ok (.eXfer1 false) := by decide
theorem witness_engine_tick :                               -- R165, R166: CONTROLLER waits, ENGINE takes the head; in flight; latency
    let s := { placeC (.pop .searchCmd) [] with cmd := [0x0F0] }
    let c := { placeC .dev [] with ctlWait := 2, eng := ⟨.rstLow, 3, 0, 0, 0, false, true⟩ }
    (s.agentsMove ∧ s.level = .cycle ∧ s.ports.host.hSel = false ∧ s.ctlWait = 0 ∧ controllerBlocked s = true ∧
      after (step s) (fun t => t.cmd == [] && t.eng.phase == .slLow && t.eng.drive && t.seq == .pop .searchCmd) = true) ∧
    (c.agentsMove ∧ c.ctlWait ≠ 0 ∧ after (step c) (fun t => t.ctlWait == 1 && t.eng.cnt == 2 && t.seq == .dev) = true) := by
  decide
theorem witness_placed_word :
    State.reset.level = .transaction ∧ State.reset.seq = .hostIdle ∧ quiescent State.reset = true ∧
      0 < State.reset.par.fifoDepth ∧ decodeTableWord 8 0x55 = some .addressOne ∧
      decodeTableWord 32 3 = some .reinit := by decide
theorem witness_busy_command :
    let s := withHost (ctrlWrite 1) (placeT .dev [])
    let c := withHost (ctrlWrite 2) (placeC .dev [])
    (s.seq ≠ .hostIdle ∧ s.agentsMove ∧ s.level = .transaction ∧ ctrlWritten s = true ∧
      decode .host (natBytes 4 s.ports.host.hWdata.toNat) = .ok .discover) ∧
    (c.seq ≠ .hostIdle ∧ c.agentsMove ∧ ctrlWritten c = true ∧ ctrlOp c = 2 ∧ c.level = .cycle) := by decide
theorem witness_reinit_written :
    let s := withHost (ctrlWrite 7) (placeC (.pop .readB1) [0x01])
    s.agentsMove ∧ ctrlWritten s = true ∧ ctrlOp s = 3 := by decide
theorem witness_rst :
    (withHost { hostReadOf 0x101 with rst := true } (placeC (.pop .readB1) [0x01])).ports.host.rst = true := by decide
theorem witness_at_reset : State.reset.atReset ∧ State.reset.hostQuiet := by decide
theorem witness_idle_step :
    let s := withHost (hostReadOf 1) { State.reset with romCount := 3 }
    s.agentsMove ∧ s.seq = .hostIdle ∧ ctrlWritten s = false ∧ after (step s) (fun t => t.romCount == 3) = true := by decide
theorem witness_idle_tick :                                 -- R374, log 32
    let s := { placeC .hostIdle [] with dm := { DevMan.reset with k := 3, j := 9, crc := 7, pollT := 5 }, framing := .w1 }
    s.agentsMove ∧ s.seq = .hostIdle ∧ ctrlWritten s = false ∧ quiescent s = true ∧
      after (step s) (fun t => t.dm == { s.dm with pollT := 4 } && t.framing == .w1) = true := by decide
theorem witness_register_map :
    State.reset.wf ∧ State.reset.seq = .hostIdle ∧ 7 < State.reset.par.nMax ∧ State.reset.rom[7]? = some 0 ∧
      State.reset.rdg[7]? = some .empty := by decide
theorem test_register_map_boundaries :
    let s : State := { State.reset with
      romCount := 8, rdgCount := 8, rom := [1, 2, 3, 4, 5, 6, 7, 0x0000000900000008]
      rdg := List.replicate 7 .empty ++ [⟨.crcFail, 0, 0⟩] }
    hostWord s 0x000 0 = 0 ∧ hostWord s 0x002 0 = 8 ∧ hostWord s 0x003 0 = 8 ∧ hostWord s 0x0FF 0 = 0 ∧
      hostWord s 0x100 0 = 1 ∧ hostWord s 0x10E 0 = 8 ∧ hostWord s 0x10F 0 = 9 ∧ hostWord s 0x110 0 = 0 ∧
      hostWord s 0x1FF 0 = 0 ∧ hostWord s 0x200 0 = 0 ∧ hostWord s 0x207 0 = 0x80000000 ∧ hostWord s 0x208 0 = 0 := by
  decide
theorem witness_host_read :
    let s := withHost (hostReadOf 0x3FF) (placeC .hostIdle [])
    s.agentsMove ∧ s.seq = .hostIdle ∧ s.ports.host.hSel = true ∧ s.ports.host.hWe = false ∧ s.level = .cycle := by decide
theorem witness_host_read_while_busy :                       -- R81: at the tick of the read CONTROLLER makes its step too
    let s := withHost (hostReadOf 0x004) { placeC (.pop .readB1) [0x01] with ports := { State.reset.ports with hRdata := 5 } }
    s.agentsMove ∧ s.seq ≠ .hostIdle ∧ s.ports.host.hSel = true ∧ s.ports.host.hWe = false ∧ s.level = .cycle ∧
      after (step s) (fun t => t.ports.hRdata == 0 && t.draws == 1 && t.rs.b1 && t.seq == .push .readB2) = true := by decide
theorem witness_busy_read : (placeT .dev []).par.wf ∧ (placeT .dev []).seq ≠ .hostIdle := by decide
theorem witness_other_write :
    let s := withHost { ctrlWrite 1 with hAddr := 0x001 } (placeC .hostIdle [])
    let c := withHost { ctrlWrite 1 with hAddr := 0x3FF } (placeT .hostIdle [])
    (s.agentsMove ∧ s.ports.host.hSel = true ∧ s.ports.host.hWe = true ∧ s.ports.host.hAddr ≠ 0 ∧ s.level = .cycle) ∧
    (c.agentsMove ∧ c.ports.host.hSel = true ∧ c.ports.host.hWe = true ∧ c.ports.host.hAddr ≠ 0 ∧
      c.level = .transaction) := by decide
theorem witness_quiescent :
    quiescent (lineT .w8 []) = true ∧ quiescent (lineT .w1 []) = true ∧ 0 < (lineT .w8 []).par.fifoDepth ∧
      quiescent { lineT .w8 [] with res := [0x00] } = false := by decide
theorem witness_bus_operation :
    busElem .readScratchpad = some 0x0BE ∧ bcReady { lineT .w8 [] with cmd := [0, 0, 0, 0] } = true ∧
      bcReady { lineT .w8 [] with cmd := [0, 0, 0, 0], res := [0, 0, 0, 0] } = false := by decide
theorem witness_issue_waits_for_the_pop :                   -- R206: no second element before the result is popped
    let s := { placeT (.pop .readB1) [0x01] with issue := some (.bc .bitKeep, [0x01, 0x00]) }
    s.seq = .pop .readB1 ∧ bcReady s = true ∧
      after (step s) (fun t => t.rs.b1 && t.cmd == [] && t.issue == s.issue && issueReady .readBit t) = true := by decide
theorem witness_reset_at_level_c :                          -- R200, R170: the recovery stands before the next element
    let s := lineC .w8 [false]
    quiescent s = true ∧ s.level = .cycle ∧ busElem (.writeByte 0xCC) ≠ none ∧
      after (exec .reset s) (fun t => t.presence && t.eng.phase == .rstRec && t.eng.cnt == t.par.tRstrec &&
        !issueReady (.writeByte 0xCC) t) = true := by decide
theorem test_recovery_is_counted_by_the_ticks :             -- R170, R372: IDLE again T_RSTREC ticks after a directly issued RESET
    after (onNext (exec .reset { lineC .w8 [false] with par := shortParams }) (run (shortParams.tRstrec - 1)))
      (fun t => t.eng.phase == .rstRec) = true ∧
    after (onNext (exec .reset { lineC .w8 [false] with par := shortParams }) (run shortParams.tRstrec))
      (fun t => t.eng.phase == .idle && issueReady (.setFraming .w1) t && quiescent t) = true := by decide
theorem witness_bus_operation_moves :                       -- R206: a full CMD; ENGINE takes its head, the element goes behind
    after (exec .readByte { lineT .w8 [] with cmd := [1, 0, 0, 0], res := [0x77] })
      (fun t => t.cmd == [0, 0, 0, 0x0FF] && t.res.length == 1 && t.ret == 0x77) = true := by decide
theorem witness_bus_frame :
    after (exec .readBit (lineT .w1 [true])) (fun t => t.ret == 1) = true ∧
    after (exec (.eXfer8 1) (lineT .w8 [true])) (fun t => t.res == [1]) = true := by decide
theorem witness_address_one :
    let s := { lineT .w8 [] with rom := [1, 2, 3, 4, 5, 6, 7, 8], dm := { DevMan.reset with k := 7 } }
    quiescent s = true ∧ 0 < s.par.fifoDepth ∧ s.framing = .w8 ∧ s.rom[s.dm.k.toNat]? = some 8 := by decide
theorem witness_engine_room :
    (lineT .w8 []).eng.phase = .idle ∧ { lineT .w8 [] with res := [0, 0, 0] }.res.length < (lineT .w8 []).par.fifoDepth ∧
      (lineT .w8 []).par.fifoDepth ≤ { lineT .w8 [] with res := [0, 0, 0, 0] }.res.length := by decide
theorem witness_transfer_bits :
    (lineT .w8 [true, false]).bus = .script [true, false] ∧ samplesBefore 0x05 8 ≤ [true, false].length := by decide
theorem witness_engine_step :
    (engineStep { lineT .w8 [] with cmd := [0x000] }).map (fun t => (t.cmd, t.res)) = some ([], [0x00]) := by decide
theorem witness_crc_lengths : ([0x01, 0x02] : List Byte).length = ([0xFF, 0x00] : List Byte).length := by decide
theorem witness_single_bit : crc8 padA = 0x00 ∧ padA[8]? = some 0x33 ∧ 7 < 8 := by decide +kernel
theorem witness_controller_turn :
    (placeT .discoverStart []).controllerTurn ∧ (placeT (.pop .passReset) [0x01]).controllerTurn ∧
      (placeT (.pop .sampleReset) [0x00]).controllerTurn ∧ (placeT (.pop .devReset) [0x01]).controllerTurn ∧
      (placeT (.push .writeDir) []).controllerTurn ∧ (placeT .sampleStart []).controllerTurn ∧
      (placeC .discoverStart []).controllerTick ∧ (placeC (.pop .passReset) [0x01]).controllerTick ∧
      (placeC .sampleStart []).controllerTick := by decide
theorem witness_pass_reset_low :                            -- R231: a low sample is a presence
    let s := placeT (.pop .passReset) [0x00]
    s.controllerMoves ∧ (0x00#8).getLsbD 0 = false ∧
      after (step s) (fun t => t.presence && t.seq == .push .searchCmd && t.flags == .clear) = true := by decide
theorem witness_search_command :                            -- R233: a later pass forgets the marker it was steered by
    let s := { placeC (.pop .searchCmd) [0x00] with rs := { Search.reset with i := 64, new := some 3, last := some 3 } }
    s.controllerMoves ∧ s.res = [0x00] ∧ s.eng.phase = .idle ∧
      after (step s) (fun t => t.framing == .w1 && t.rs.new == none && t.rs.i == 0 && t.rs.last == some 3) = true := by
  decide
theorem witness_controller_tick_in_recovery :               -- R170, R206: the RESET's result is popped while ENGINE recovers
    let s := { placeC (.pop .devReset) [0x00] with eng := ⟨.rstRec, 5, 0, 0, 0, false, false⟩ }
    s.controllerTick ∧
      after (step s) (fun t => t.seq == .push .addrOne && t.presence && t.eng.cnt == 4 && t.res == []) = true := by decide
theorem witness_pair :
    let s := { placeT (.pop .readB2) [0x01] with rs := { Search.reset with b1 := true } }
    let c := { placeT (.pop .readB2) [0x00] with rs := { Search.reset with i := 63, last := some 63 } }
    (s.controllerTurn ∧ s.rs.b1 = true ∧ (0x01#8).getLsbD 0 = true ∧ s.eng.phase = .idle) ∧
    (c.controllerTurn ∧ c.rs.b1 = false ∧ (0x00#8).getLsbD 0 = false ∧ c.rs.i.toNat < 64 ∧
      after (step c) (fun t => t.rs.dir && t.rs.new == none) = true) := by decide
theorem witness_pair_differs :                              -- R234, R236
    let s := { placeC (.pop .readB2) [0x00] with rs := { Search.reset with b1 := true, new := some 5 } }
    let c := placeT (.pop .readB1) [0x01]
    (s.controllerMoves ∧ s.rs.b1 ≠ (0x00#8).getLsbD 0 ∧
      after (step s) (fun t => t.rs.dir && t.rs.new == some 5 && t.seq == .push .writeDir) = true) ∧
    (c.controllerMoves ∧ c.res = [0x01] ∧ after (step c) (fun t => t.rs.b1 && t.seq == .push .readB2) = true) := by decide
theorem witness_direction :
    let s := { placeT (.pop .writeDir) [0x01] with rs := { Search.reset with i := 63, dir := true } }
    s.controllerTurn ∧ 0 < s.par.fifoDepth ∧ s.rs.i.toNat < 64 ∧ s.eng.phase = .idle ∧
      after (step s) (fun t => t.rs.i == 64 && t.rs.rom == 0x8000000000000000) = true := by decide
theorem witness_end_of_pass :
    let s := { placeC (.pop .writeDir) [0x01] with
      romCount := 7, rs := { Search.reset with i := 63, dir := true, new := some 3, rom := 5 } }
    s.controllerMoves ∧ s.wf ∧ s.rs.i = 63 ∧ s.eng.phase = .idle ∧ s.rs.new ≠ none ∧
      s.romCount.toNat + 1 = s.par.nMax ∧
      after (step s) (fun t => t.flags.tableFull && t.rom[7]? == some 0x8000000000000005 && t.framing == .w8) = true := by
  decide
theorem witness_end_of_pass_goes_on :
    let s := { placeT (.pop .writeDir) [0x00] with rs := { Search.reset with i := 63, new := some 63 } }
    s.controllerMoves ∧ s.wf ∧ s.rs.i = 63 ∧ s.eng.phase = .idle ∧ s.rs.new ≠ none ∧
      s.romCount.toNat + 1 < s.par.nMax ∧
      after (step s) (fun t => t.seq == .push .passReset && t.rs.last == some 63) = true := by decide
theorem witness_poll :
    let s := { placeC (.pop .pollRead) [0x00] with dm := { DevMan.reset with pollT := 1 } }
    s.controllerTick ∧ s.dm.pollT ≠ 0 ∧ (placeC (.pop .pollRead) [0x00]).dm.pollT = 0 ∧
      after (step s) (fun t => t.seq == .pollGap && t.dm.gapT == 10000 && t.dm.pollT == 0) = true := by decide
theorem witness_poll_gap :                                  -- R264: the gap ends when DM.gap_t is 0, R48: it counts down
    let s := { placeC .pollGap [] with dm := { DevMan.reset with gapT := 1, pollT := 5 } }
    s.controllerTick ∧ s.dm.gapT ≠ 0 ∧ (placeC .pollGap []).controllerTick ∧ (placeC .pollGap []).dm.gapT = 0 ∧
      after (step s) (fun t => t.seq == .pollGap && t.dm.gapT == 0 && t.dm.pollT == 4) = true ∧
      after (run 2 s) (fun t => t.seq == .push .pollRead) = true := by decide
theorem witness_ninth_byte :
    let s := { placeT (.pop .spByte) [0x33] with
      dm := { DevMan.reset with j := 8, sp := [0x90, 0x01, 0x4B, 0x46, 0x7F, 0xFF, 0x0C, 0x10, 0x00] } }
    s.controllerTurn ∧ s.dm.j = 8 ∧
      after (step s) (fun t => t.rdg[0]? == some ⟨.temp, 3, 0x0190⟩ && t.flags == .clear) = true := by decide +kernel
theorem witness_poll_starts :                               -- R263, R264, R48
    let s := placeC (.pop .startConv) [0x00]
    s.controllerMoves ∧ (placeT (.pop .addrAll) [0x00]).controllerMoves ∧
      after (step s) (fun t => t.dm.pollT == 1000000 && t.seq == .push .pollRead) = true := by decide
theorem witness_poll_transaction :                          -- U5: the bound on the reads decides at Level T
    let s := { placeT (.pop .pollRead) [0x00] with pollReads := 95, romCount := 1 }
    let c := placeT (.pop .pollRead) [0x00]
    (s.controllerMoves ∧ budgetSpent s = true ∧
      after (step s) (fun t => t.flags.pollTimeout && t.seq == .push .devReset) = true) ∧
    (c.controllerMoves ∧ budgetSpent c = false ∧ (placeT .pollGap []).controllerMoves ∧
      after (run 2 c) (fun t => t.pollReads == 1 && t.seq == .push .pollRead) = true) := by decide
theorem witness_device_loop :                               -- R265, R266: READ_ALL and DEV are passed in the poll's last step
    let s := placeC (.pop .pollRead) [0xFF]
    (s.controllerMoves ∧ s.romCount = 0 ∧ after (step s) (fun t => t.seq == .hostIdle && t.flags == .clear) = true) ∧
    ((placeT (.pop .addrOne) [0x00]).controllerMoves ∧ (placeT (.pop .readCmd) [0x00]).controllerMoves) := by decide
theorem witness_address_bytes :                             -- R267
    let s := { placeT (.pop .addrByte) [0x00] with dm := { DevMan.reset with j := 7 } }
    s.controllerMoves ∧ s.dm.j.toNat < 8 ∧ after (step s) (fun t => t.seq == .push .readCmd) = true := by decide
theorem witness_scratchpad_bytes :                          -- R269
    let s := { placeC (.pop .spByte) [0xA5] with dm := { DevMan.reset with j := 7 } }
    s.controllerMoves ∧ s.dm.j.toNat < 8 ∧
      after (step s) (fun t => t.dm.sp == [0, 0, 0, 0, 0, 0, 0, 0xA5, 0] && t.seq == .push .spByte) = true := by decide
theorem witness_device_loop_ends :                          -- R275
    let s := { placeT (.pop .spByte) [0x33] with romCount := 1, dm := { DevMan.reset with j := 8 } }
    s.controllerMoves ∧ s.dm.j.toNat = 8 ∧ s.dm.k + 1 = s.romCount ∧
      after (step s) (fun t => t.rdgCount == 1 && t.seq == .hostIdle) = true := by decide +kernel
theorem witness_pushed_element :                            -- R93, R267: byte 3 of RomCode A
    let s := { placeC (.push .addrByte) [] with rom := [codeA], dm := { DevMan.reset with j := 3 } }
    s.controllerMoves ∧ 0 < s.par.fifoDepth ∧ s.rom[s.dm.k.toNat]? = some codeA ∧
      after (step s) (fun t => t.cmd == [0x01E] && t.seq == .pop .addrByte) = true := by decide
def inPass : State := { placeC (.pop .passReset) [] with eng := ⟨.rstLow, 3, 0, 0, 0, false, true⟩ }
theorem witness_invariants_while_busy :
    inPass.wf ∧ inPass.engineOk ∧ inPass.flagsOk = true ∧ after (step inPass) (fun t => t.eng.cnt == 2) = true :=
  ⟨by decide, by decide, by decide, by decide⟩
theorem witness_readings_and_flow : inPass.readingsOk ∧ inPass.flowOk :=
  ⟨⟨rfl, rfl⟩, ⟨by decide, by decide, by decide, by decide, .inr (.inl ⟨rfl, rfl, rfl⟩)⟩⟩
theorem witness_flags :
    let s := withHost (ctrlWrite 0) { placeT .dev [] with flags := { Flags.clear with crcMismatch := true } }
    let c := withHost (ctrlWrite 1) { placeT .hostIdle [] with flags := { Flags.clear with busFault := true } }
    (s.agentsMove ∧ clearsFlags s = false ∧ after (step s) (fun t => t.flags.crcMismatch) = true) ∧
    (c.agentsMove ∧ clearsFlags c = true ∧ after (step c) (fun t => t.flags == .clear) = true) := by decide
theorem witness_table_places :
    let s := { placeT (.pop .writeDir) [0x00] with rs := { Search.reset with i := 63, rom := codeA } }
    s.agentsMove ∧ after (step s) (fun t => t.romCount == 1 && t.framing == .w8) = true := by decide
theorem witness_three_steps :
    let s := placeT (.push .searchCmd) []
    s.controllerTurn ∧ s.res = [] ∧ 0 < s.par.fifoDepth ∧ (transact (placeElem .searchCmd s) s).isSome = true := by decide
theorem test_reset_element_clears_isr :                     -- R36, R37, R166
    after (step { lineC .w8 [] with cmd := [0x100], eng := ⟨.idle, 0, 0, 0xA5, 8, false, false⟩ })
      (fun t => t.eng.isr == 0 && t.eng.phase == .rstLow && t.eng.drive) = true := by decide
theorem witness_ticked_elements :
    let s := { lineC .w8 [true] with cmd := [0x100] }
    let x := { lineC .w1 [true] with cmd := [0x001] }
    (s.par.wf ∧ s.eng.phase = .idle ∧ (0x100#9).getLsbD 8 = true ∧ s.res.length < s.par.fifoDepth) ∧
    (x.par.wf ∧ x.eng.phase = .idle ∧ (0x001#9).getLsbD 8 = false ∧ x.res.length < x.par.fifoDepth) := by decide
def discovering : State := { State.resetWith .default .transaction (busA 21) with seq := .discoverStart }
def sampling : State :=
  { State.resetWith .default .transaction (busA 21) with
    seq := .sampleStart, romCount := 1, rom := codeA :: List.replicate 7 0 }
theorem witness_operations :
    (discovering.wf ∧ discovering.level = .transaction ∧ discovering.hostQuiet ∧ discovering.flags = .clear) ∧
    (sampling.wf ∧ sampling.level = .transaction ∧ sampling.hostQuiet ∧ sampling.flags = .clear ∧ padA.length = 9 ∧
      sampling.rom[0]? = some codeA ∧ 21 ≤ 8 * (sampling.par.pollMaxReads - 1)) :=
  ⟨⟨by decide, by decide⟩, by decide, by decide⟩
theorem witness_operations_flow : discovering.flowOk ∧ sampling.flowOk :=
  ⟨⟨by decide, rfl, rfl, fun _ => rfl, rfl, rfl, rfl⟩, ⟨by decide, rfl, rfl, fun _ => rfl, rfl, rfl, rfl⟩⟩

end Sys2Proof.Tests
end

section
/-! PROOFS. The host's view of an idle core: the words of the map (R55) and the core at rest after reset (R64). -/

namespace Sys2Proof.Machine

/-! ### The words of the HOST space while BUSY = 0 (R55) -/

theorem hostWord_hostIdle {s : State} (a d : Nat) (h : s.seq = .hostIdle) : hostWord s a d = mapWord s a := by
  simp [hostWord, busy, h]

/-- From index 4 on the map has the two windows alone. -/
theorem mapWord_windows (s : State) {a : Nat} (ha : 0x004 ≤ a) :
    mapWord s a =
      if 0x100 ≤ a ∧ a < 0x100 + 2 * s.par.nMax then
        (if a % 2 = 0 then romLoWord s ((a - 0x100) / 2) else romHiWord s ((a - 0x100) / 2))
      else if 0x200 ≤ a ∧ a < 0x200 + s.par.nMax then rdgWord s (a - 0x200)
      else 0 := by
  unfold mapWord
  rw [if_neg (by omega), if_neg (by omega), if_neg (by omega), if_neg (by omega)]

theorem mapWord_reserved {s : State} {a : Nat} (ha : 0x004 ≤ a)
    (hrom : ¬(0x100 ≤ a ∧ a < 0x100 + 2 * s.par.nMax)) (hrdg : ¬(0x200 ≤ a ∧ a < 0x200 + s.par.nMax)) :
    mapWord s a = 0 := by
  rw [mapWord_windows s ha, if_neg hrom, if_neg hrdg]

theorem mapWord_romLo {s : State} {k : Nat} (hk : k < s.par.nMax) : mapWord s (0x100 + 2 * k) = romLoWord s k := by
  rw [mapWord_windows s (by omega), if_pos (by omega), if_pos (by omega), show (0x100 + 2 * k - 0x100) / 2 = k by omega]

theorem mapWord_romHi {s : State} {k : Nat} (hk : k < s.par.nMax) : mapWord s (0x101 + 2 * k) = romHiWord s k := by
  rw [mapWord_windows s (by omega), if_pos (by omega), if_neg (by omega), show (0x101 + 2 * k - 0x100) / 2 = k by omega]

theorem mapWord_rdg {s : State} {k : Nat} (hn : s.par.nMax ≤ 64) (hk : k < s.par.nMax) :
    mapWord s (0x200 + k) = rdgWord s k := by
  rw [mapWord_windows s (by omega), if_neg (by omega), if_pos (by omega), Nat.add_sub_cancel_left]

theorem romEntry_of_getElem? {s : State} {k : Nat} {c : RomCode} (h : s.rom[k]? = some c) : romEntry s k = c := by
  simp [romEntry, h]

theorem romLoWord_eq {s : State} {k : Nat} {c : RomCode} (h : s.rom[k]? = some c) :
    romLoWord s k = if k < s.romCount.toNat then c.extractLsb' 0 32 else 0 := by
  simp only [romLoWord, romEntry_of_getElem? h, BitVec.setWidth_eq_extractLsb' (show 32 ≤ 64 by decide)]

theorem romHiWord_eq {s : State} {k : Nat} {c : RomCode} (h : s.rom[k]? = some c) :
    romHiWord s k = if k < s.romCount.toNat then c.extractLsb' 32 32 else 0 := by
  have hc : (c >>> 32).setWidth 32 = c.extractLsb' 32 32 := rfl
  simp only [romHiWord, romEntry_of_getElem? h, hc]

/-- The fields of a Reading's word are disjoint, so their concatenation is their weighted sum (R51). -/
theorem readingWord_eq_ofNat (r : Reading) :
    readingWord r =
      BitVec.ofNat 32 ((kindBits r.kind).toNat * 2 ^ 30 + r.resf.toNat * 2 ^ 16 + r.t16.toNat) := by
  have hlow : (0#12 ++ (r.resf ++ r.t16)).toNat = r.resf.toNat * 2 ^ 16 + r.t16.toNat := by
    rw [BitVec.toNat_append, BitVec.toNat_append, ← Nat.shiftLeft_add_eq_or_of_lt r.t16.isLt]
    simp [Nat.shiftLeft_eq]
  rw [Nat.add_assoc, ← hlow, ← Nat.shiftLeft_eq, Nat.shiftLeft_add_eq_or_of_lt (BitVec.isLt _), ← BitVec.toNat_append]
  exact ((BitVec.ofNat_toNat _ _).trans (BitVec.setWidth_eq _)).symm

theorem rdgWord_eq {s : State} {k : Nat} {r : Reading} (h : s.rdg[k]? = some r) :
    rdgWord s k = if k < s.rdgCount.toNat then readingWord r else 0 := by
  simp [rdgWord, h]

/-- Settles O15: N_MAX is at most 64, so the ROM window ends before the RDG window begins, and each index lies in the one
range whose word R55 gives it. -/
theorem hostRegisterMap : Obligations.HostRegisterMap := by
  rintro s d ⟨⟨-, -, ⟨-, hn⟩, -⟩, -⟩ hidle
  simp only [hostWord_hostIdle _ _ hidle]
  refine ⟨rfl, rfl, (BitVec.ofNat_toNat 32 s.romCount).symm, (BitVec.ofNat_toNat 32 s.rdgCount).symm,
    ?_, ?_, ?_, ?_, ?_⟩
  · intro a ha ha'
    exact mapWord_reserved ha (by omega) (by omega)
  · intro k c hk hc
    exact ⟨(mapWord_romLo hk).trans (romLoWord_eq hc), (mapWord_romHi hk).trans (romHiWord_eq hc)⟩
  · intro a ha ha'
    exact mapWord_reserved (by omega) (by omega) (by omega)
  · intro k r hk hr
    rw [mapWord_rdg hn hk, rdgWord_eq hr, readingWord_eq_ofNat]
    cases r.kind <;> rfl
  · intro a ha ha'
    exact mapWord_reserved (by omega) (by omega) (by omega)

/-! ### The core at rest -/

/-- With both counts 0 every word but STATUS reads 0, whatever the tables hold (R55, R64). -/
theorem mapWord_counts_zero {s : State} {a : Nat} (hrom : s.romCount = 0) (hrdg : s.rdgCount = 0) (ha : a ≠ 0x001) :
    mapWord s a = 0 := by
  simp [mapWord, ha, hrom, hrdg, countWord, romLoWord, romHiWord, rdgWord]

/-- A step at Level T in which the core's agents move: one agent's step, then the next inputs. -/
theorem step_transaction {s : State} (ha : s.agentsMove) (hl : s.level = .transaction) :
    step s = onNext (stepT s) fun t => .next (showLine (nextCycle t)) := by
  unfold step machineStep moves
  simp only [ha.1, ha.2, agentsStep, hl, Bool.false_eq_true, if_false]
  cases stepT s <;> rfl

/-- At Level T an idle core with a silent host and nothing in CMD does nothing (R64, R374). -/
theorem step_hostIdle_transaction {s : State} (hl : s.level = .transaction) (hq : s.hostQuiet)
    (hseq : s.seq = .hostIdle) (hc : s.cmd = []) : step s = .next s := by
  obtain ⟨hh, hi, hiss⟩ := hq
  have hctl : controllerT s = .next s := by simp [controllerT, ctlStep, hseq]
  have hT : stepT s = .next s := by simp [stepT, hh, HostCycle.idle, hc, hctl]
  rw [step_transaction ⟨by rw [hh]; rfl, hiss⟩ hl, hT]
  simp only [onNext]
  rw [nextCycle_quiet s hi hh, showLine_transaction hl]

/-- What a tick of Level C changes in CONTROLLER while no sequence runs: the timers and the latency count down (R48, U4). -/
def idleTick (s : State) : State := { tickTimers s with ctlWait := s.ctlWait - 1 }

theorem controllerC_hostIdle {s : State} (h : s.seq = .hostIdle) : controllerC s = (none, idleTick s) := by
  have hctl : ∀ ex gd, ctlStep ex gd (tickTimers s) = none := by simp [ctlStep, h]
  unfold controllerC idleTick
  split
  · next hw => rw [hctl, show s.ctlWait - 1 = s.ctlWait by omega]; rfl
  · rfl

/-- A silent host's part of a tick is nothing. -/
theorem hostAccess_unselected {before s : State} (h : before.ports.host.hSel = false) :
    hostAccess before s = .next s := by
  simp [hostAccess, h]

/-- At Level C an idle core with a silent host, ENGINE in IDLE and nothing in CMD only counts: the timers and
CONTROLLER's latency (R48, R64, R374). -/
theorem step_hostIdle_cycle {s : State} (hl : s.level = .cycle) (hq : s.hostQuiet) (hseq : s.seq = .hostIdle)
    (he : s.eng.phase = .idle) (hc : s.cmd = []) :
    step s = .next (showLine (idleTick s)) := by
  obtain ⟨hh, hi, hiss⟩ := hq
  have hsel : s.ports.host.hSel = false := by rw [hh]; rfl
  have htick : agentsTick s = .next (idleTick s) := by
    simp only [agentsTick, controllerC_hostIdle hseq, hc, List.isEmpty_nil, Bool.not_true]
    exact congrArg _ (engineTick_idle _ _ he)
  rw [step_cycle ⟨by rw [hh]; rfl, hiss⟩ hl (by simp [reinitWritten, hsel]), htick]
  simp only [onNext, hostAccess_unselected hsel]
  rw [nextCycle_quiet (idleTick s) hi hh]

theorem tickTimers_of_zero {s : State} (hp : s.dm.pollT = 0) (hg : s.dm.gapT = 0) : tickTimers s = s := by
  rw [tickTimers, if_pos hp, if_pos hg, ← hp, ← hg]

/-- Settles O12: the counts are 0 and STATUS has no bit set, and the idle core makes no move. -/
theorem resetStateReadsZeroAndStays : Obligations.ResetStateReadsZeroAndStays := by
  intro s hreset
  obtain ⟨⟨he, -, -, -, -, -, -, -, hc, -⟩, ⟨hrom, hrdg, -, -⟩, ⟨hseq, hpres, -, hdm⟩, hflags⟩ := id hreset
  refine ⟨fun a => ?_, fun hq => ?_⟩
  · rw [hostWord_hostIdle _ _ hseq]
    by_cases ha : a.toNat = 0x001
    · rw [ha]
      simp [mapWord, statusWord, busy, bitAt, hseq, hpres, hflags]
    · exact mapWord_counts_zero hrom hrdg ha
  · cases hl : s.level with
    | transaction => exact ⟨s, step_hostIdle_transaction hl hq hseq hc, hreset, hq, rfl, rfl⟩
    | cycle =>
      have ht : tickTimers s = s := tickTimers_of_zero (by rw [hdm]) (by rw [hdm])
      obtain ⟨o, ho⟩ := showLine_eq (idleTick s)
      have hstep := step_hostIdle_cycle hl hq hseq he hc
      rw [ho, idleTick, ht] at hstep
      exact ⟨_, hstep, hreset, hq, rfl, rfl⟩

end Sys2Proof.Machine
end

section
/-! PROOFS. The result of a transfer, bit by bit, on a line whose sample levels are given (R91, R92, R162 to R164). -/

namespace Sys2Proof.Machine

/-- Writing bit i changes bit i alone. -/
theorem getLsbD_setBit {w : Nat} (v : BitVec w) {i : Nat} (hi : i < w) (b : Bool) (k : Nat) :
    (setBit v i b).getLsbD k = if k = i then b else v.getLsbD k := by
  have hone : (1#w <<< i).getLsbD k = decide (k = i) := by
    rw [← BitVec.twoPow_eq, BitVec.getLsbD_twoPow]
    simp [hi, eq_comm]
  cases b with
  | true =>
    rw [setBit, if_pos rfl, BitVec.getLsbD_or, hone]
    by_cases hk : k = i <;> simp [hk]
  | false =>
    rw [setBit, if_neg Bool.false_ne_true, BitVec.getLsbD_and, BitVec.getLsbD_not, hone]
    by_cases hk : k = i
    · simp [hk]
    · simpa [hk] using BitVec.lt_of_getLsbD

theorem setBit_zero_false (w i : Nat) : setBit 0#w i false = 0#w := by
  simp [setBit]

/-- A slot on a scripted line takes the next level if its input bit is 1 and none if it is 0 (R163, R164). -/
theorem busSlot_script {m : Bool} {ls : List Bool} {s : State} (hbus : s.bus = .script ls)
    (hlen : (if m then 1 else 0) ≤ ls.length) :
    (busSlot m s).2 = (m && ls.getD 0 false) ∧
      (busSlot m s).1.bus = .script (ls.drop (if m then 1 else 0)) := by
  cases m with
  | false => simp [busSlot, hbus]
  | true =>
    cases ls with
    | nil => simp at hlen
    | cons l ls => simp [busSlot, sampleLevel, hbus]

/-- n + 1 slots are n slots and one more, which writes its output bit at its own index (R162). -/
theorem slots_succ_last (d : Byte) (n k : Nat) (r : Byte) (s : State) :
    slots d (n + 1) k r s =
      ((busSlot (d.getLsbD (k + n)) (slots d n k r s).1).1,
        setBit (slots d n k r s).2 (k + n) (busSlot (d.getLsbD (k + n)) (slots d n k r s).1).2) := by
  induction n generalizing k r s with
  | zero => rfl
  | succ n ih => rw [slots, ih, slots, Nat.add_right_comm k 1 n, Nat.add_assoc k n 1]

/-- After n slots on a scripted line: bit k of the result is the level at the sample of slot k, for each slot done with
input bit 1, and 0 elsewhere; the levels of the sampled slots are used up. Each further slot adds its own bit. -/
theorem slots_script {d : Byte} {n : Nat} {ls : List Bool} {s : State} (hn : n ≤ 8) (hbus : s.bus = .script ls)
    (hlen : samplesBefore d n ≤ ls.length) :
    (∀ k, (slots d n 0 0#8 s).2.getLsbD k =
      (decide (k < n) && d.getLsbD k && ls.getD (samplesBefore d k) false)) ∧
    (slots d n 0 0#8 s).1.bus = .script (ls.drop (samplesBefore d n)) := by
  induction n with
  | zero => simp [slots, samplesBefore, hbus]
  | succ n ih =>
    rw [samplesBefore] at hlen
    obtain ⟨hbits, hrest⟩ := ih (by omega) (by omega)
    obtain ⟨hout, hnext⟩ := busSlot_script (m := d.getLsbD n) hrest (by rw [List.length_drop]; omega)
    rw [slots_succ_last, Nat.zero_add]
    refine ⟨fun k => ?_, by rw [hnext, List.drop_drop, samplesBefore]⟩
    rw [getLsbD_setBit _ (by omega), hout, hbits]
    by_cases hk : k = n
    · simp [hk]
    · simp [hk, show k < n + 1 ↔ k < n by omega]

/-- A transfer of zeros samples nothing, so its result stays 0 on every bus (R164). -/
theorem slots_zeros (n k : Nat) (s : State) : (slots 0#8 n k 0#8 s).2 = 0#8 := by
  induction n generalizing k s with
  | zero => rfl
  | succ n ih =>
    rw [slots, BitVec.getLsbD_zero, busSlot_false_bit, setBit_zero_false]
    exact ih (k + 1) _

/-- Settles O29: by induction on the slots done, from the slot rule of the scripted line. -/
theorem transferResultBits : Obligations.TransferResultBits := by
  refine ⟨fun d n k ls s hn hbus hlen => ?_, fun n s => slots_zeros n 0 s⟩
  obtain ⟨hbits, hrest⟩ := slots_script hn hbus hlen
  exact ⟨hbits k, hrest⟩

end Sys2Proof.Machine
end

section
/-! PROOFS. Decoding the words of CTRL and the elements of CMD by their fields (R121, R123, R124, R126). -/

namespace Sys2Proof.Machine

/-! ### The bytes of a word put together again (R91) -/

/-- The bits from 8 up are the quotient by 256, the low eight the low byte. -/
theorem ofNat_div_append_ofNat (m n : Nat) :
    BitVec.ofNat m (n / 256) ++ BitVec.ofNat 8 n = BitVec.ofNat (m + 8) n := by
  refine BitVec.eq_of_getLsbD_eq fun i hi => ?_
  simp only [BitVec.getLsbD_append, BitVec.getLsbD_ofNat]
  by_cases h : i < 8
  · simp [h, hi]
  · have hbit : (n / 256).testBit (i - 8) = n.testBit i := by
      rw [show 256 = 2 ^ 8 from rfl, Nat.testBit_div_two_pow, Nat.sub_add_cancel (by omega)]
    simp [h, hi, hbit, show i - 8 < m by omega]

theorem decode_host_natBytes (w : HWord) : decode .host (natBytes 4 w.toNat) = .ok (decodeHost w) := by
  have hw : BitVec.ofNat 32 w.toNat = w := (BitVec.ofNat_toNat 32 w).trans (BitVec.setWidth_eq w)
  simp only [natBytes, decode, ofNat_div_append_ofNat]
  exact congrArg (fun v => Except.ok (decodeHost v)) hw

theorem elemOfBytes_zero (b : Byte) : elemOfBytes b 0#8 = .ok (0#1 ++ b) :=
  congrArg Except.ok (BitVec.setWidth_eq_append (by decide))

theorem elemOfBytes_one (b : Byte) : elemOfBytes b 1#8 = .ok (1#1 ++ b) := rfl

/-- The high byte of an element is 0 or 1, its bit 8 (R121). -/
theorem elemOfBytes_natBytes (e : Elem) :
    elemOfBytes (BitVec.ofNat 8 e.toNat) (BitVec.ofNat 8 (e.toNat / 256)) = .ok e := by
  have he : BitVec.ofNat 1 (e.toNat / 256) ++ BitVec.ofNat 8 e.toNat = e :=
    (ofNat_div_append_ofNat 1 e.toNat).trans ((BitVec.ofNat_toNat 9 e).trans (BitVec.setWidth_eq e))
  obtain h | h : e.toNat / 256 = 0 ∨ e.toNat / 256 = 1 := by omega
  · rw [h] at he ⊢
    rw [elemOfBytes_zero, he]
  · rw [h] at he ⊢
    rw [elemOfBytes_one, he]

theorem decode_eng_natBytes (w : Framing) (e : Elem) :
    decode (.eng w) (natBytes 2 e.toNat) = .ok (decodeElem w e) := by
  simp only [natBytes, decode, elemOfBytes_natBytes]

/-! ### The fields of a word as numbers -/

/-- Field `OP` is the value mod 4 (R126). -/
theorem decodeHost_eq_mod (w : HWord) :
    decodeHost w =
      if w.toNat % 4 = 0 then .nop else if w.toNat % 4 = 1 then .discover else if w.toNat % 4 = 2 then .sampleAll
      else .reinit := by
  have h0 : w.getLsbD 0 = decide (w.toNat % 4 % 2 = 1) := by
    rw [BitVec.getLsbD, Nat.testBit_eq_decide_div_mod_eq]
    exact decide_eq_decide.mpr (by omega)
  have h1 : w.getLsbD 1 = decide (w.toNat % 4 / 2 = 1) := by
    rw [BitVec.getLsbD, Nat.testBit_eq_decide_div_mod_eq]
    exact decide_eq_decide.mpr (by omega)
  have hop : w.toNat % 4 < 4 := Nat.mod_lt _ (by decide)
  rw [decodeHost, h1, h0]
  interval_cases w.toNat % 4 <;> rfl

/-- Bit 8 is the top bit of an element. -/
theorem elemRst_iff (e : Elem) : elemRst e = true ↔ 256 ≤ e.toNat := by
  rw [elemRst, BitVec.getLsbD, Nat.testBit_eq_decide_div_mod_eq, decide_eq_true_iff]
  omega

theorem decodeElem_reset {e : Elem} (w : Framing) (h : 256 ≤ e.toNat) : decodeElem w e = .eReset :=
  if_pos ((elemRst_iff e).mpr h)

theorem decodeElem_w8 {e : Elem} (h : ¬256 ≤ e.toNat) : decodeElem .w8 e = .eXfer8 (BitVec.ofNat 8 e.toNat) :=
  (if_neg (mt (elemRst_iff e).mp h)).trans (congrArg Instr.eXfer8 (BitVec.ofNat_toNat 8 e).symm)

theorem decodeElem_w1 {e : Elem} (h : ¬256 ≤ e.toNat) : decodeElem .w1 e = .eXfer1 (e.toNat % 2 == 1) :=
  (if_neg (mt (elemRst_iff e).mp h)).trans (congrArg Instr.eXfer1 (by rw [BitVec.getLsbD, Nat.testBit_zero]; rfl))

/-- Settles O3: the bytes give the word back, and the decoder then reads the fields OP, RST and DATA alone. -/
theorem wordsDecodeByTheirFields : Obligations.WordsDecodeByTheirFields := by
  refine ⟨fun w => (decode_host_natBytes w).trans (congrArg _ (decodeHost_eq_mod w)), fun e w => ?_⟩
  rw [decode_eng_natBytes]
  by_cases h : 256 ≤ e.toNat
  · rw [decodeElem_reset w h, if_pos h]
  · rw [if_neg h]
    cases w with
    | w8 => rw [decodeElem_w8 h]
    | w1 => rw [decodeElem_w1 h]

end Sys2Proof.Machine
end

section
/-! PROOFS. E.REINIT on the ENGINE sideband (R176, R88). -/

namespace Sys2Proof.Machine

/-- E.REINIT has no case where it waits, faults or is refused: it acts whatever ENGINE is doing (R176). -/
theorem exec_eReinit (w : Framing) (s : State) : exec (.eReinit w) s = .next (engineReinit w s) := rfl

/-- Settles O31: E.REINIT is `engineReinit` in every state, and ENGINE's reset value is IDLE, all counts 0, the line
released. -/
theorem engineReinitFlushes : Obligations.EngineReinitFlushes := fun s w => by
  rw [exec_eReinit, engineReinit, Engine.reset]

end Sys2Proof.Machine
end

section
/-! PROOFS. The numbers of a Scratchpad: the temperature's signed value, its integer part and fraction, and the
resolution field (R272, R273). -/

namespace Sys2Proof.Machine

/-- The bytes are little-endian: byte 0 is the low one (R94, R272). -/
theorem rawTemp_toNat (sp : List Byte) : (rawTemp sp).toNat = (byteAt sp 0).toNat + 256 * (byteAt sp 1).toNat := by
  rw [rawTemp, BitVec.toNat_append, ← Nat.shiftLeft_add_eq_or_of_lt (byteAt sp 0).isLt, Nat.shiftLeft_eq]
  omega

/-- The sign of the temperature is bit 7 of byte 1 (R272). -/
theorem rawTemp_msb (sp : List Byte) : (rawTemp sp).msb = (byteAt sp 1).getLsbD 7 := by
  rw [rawTemp, BitVec.msb_append, if_neg (by decide), BitVec.msb_eq_getLsbD_last]

/-- `sext(raw16)` (R272): the weight of the sign bit counts negative. -/
theorem rawTemp_toInt (sp : List Byte) :
    (rawTemp sp).toInt = (byteAt sp 0).toNat + 256 * (byteAt sp 1).toNat -
      (if (byteAt sp 1).getLsbD 7 then 65536 else 0) := by
  rw [BitVec.toInt_eq_msb_cond, rawTemp_msb, rawTemp_toNat]
  split <;> simp

/-- Dropping the four low bits rounds the signed value down to a multiple of 16: 65536 is one, so the sign's weight
divides with the rest. -/
theorem toInt_div_sixteen (v : BitVec 16) : v.toInt / 16 = (v.extractLsb' 4 12).toInt := by
  have hhigh : (v.extractLsb' 4 12).toNat = v.toNat / 16 := by
    rw [BitVec.extractLsb'_toNat, Nat.shiftRight_eq_div_pow]
    omega
  rw [BitVec.toInt_eq_toNat_cond, BitVec.toInt_eq_toNat_cond, hhigh]
  split <;> split <;> omega

/-- The sign's weight is a multiple of 16, so the remainder is the four low bits for negative values too. -/
theorem toInt_mod_sixteen (v : BitVec 16) : v.toInt % 16 = (v.extractLsb' 0 4).toNat := by
  have hlow : (v.extractLsb' 0 4).toNat = v.toNat % 16 := by
    rw [BitVec.extractLsb'_toNat, Nat.shiftRight_zero]
  rw [BitVec.toInt_eq_toNat_cond, hlow]
  split <;> omega

/-- `sp[4][6:5]` as a number (R273). -/
theorem resField_toNat (sp : List Byte) : (resField sp).toNat = (byteAt sp 4).toNat / 32 % 4 := by
  rw [resField, BitVec.toNat_setWidth, BitVec.toNat_ushiftRight, Nat.shiftRight_eq_div_pow]

/-- Settles O35: the value is byte 0 plus 256 times byte 1 less the sign's weight, and 16 divides that weight. -/
theorem temperatureAndResolutionDecode : Obligations.TemperatureAndResolutionDecode := by
  intro b0 b1 b2 b3 b4 b5 b6 b7 b8 sp
  exact ⟨rawTemp_toInt sp, toInt_div_sixteen (rawTemp sp), toInt_mod_sixteen (rawTemp sp), resField_toNat sp⟩

end Sys2Proof.Machine
end

section
/-! PROOFS. The host commands: a write of CTRL as an operation and as a step at either level (R300 to R305, R362). -/

namespace Sys2Proof.Machine

/-! ### The operations -/

theorem exec_nop (s : State) : exec .nop s = .next s := rfl
theorem exec_discover (s : State) : exec .discover s = .next (acceptCommand .discoverStart s) := rfl
theorem exec_sampleAll (s : State) : exec .sampleAll s = .next (acceptCommand .sampleStart s) := rfl
theorem exec_reinit (s : State) : exec .reinit s = .next (coreReset s) := rfl

/-- An accepted command clears the flags and puts CTL.seq at the start of its sequence (R302, R303). -/
theorem acceptCommand_hostIdle {s : State} (q : Seq) (h : s.seq = .hostIdle) :
    acceptCommand q s = { s with flags := ⟨false, false, false, false, false⟩, seq := q } :=
  if_pos h

theorem acceptCommand_busy {s : State} (q : Seq) (h : s.seq ≠ .hostIdle) : acceptCommand q s = s :=
  if_neg h

/-- STATUS bit 0 is BUSY (R54). -/
theorem statusWord_busy (s : State) : (statusWord s).getLsbD 0 = busy s := by
  have hbit : ∀ (b : Bool) (i : Nat), (bitAt b i).getLsbD 0 = (b && decide (i = 0)) := by
    intro b i
    cases b with
    | false => exact BitVec.getLsbD_zero
    | true => simp [bitAt, Nat.pos_iff_ne_zero]
  simp only [statusWord, BitVec.getLsbD_or, hbit]
  simp

theorem atReset_coreReset (s : State) : (coreReset s).atReset :=
  ⟨⟨rfl, rfl, rfl, rfl, rfl, rfl, rfl, rfl, rfl, rfl⟩, ⟨rfl, rfl, rfl, rfl⟩, ⟨rfl, rfl, rfl, rfl⟩, rfl⟩

/-! ### A write of CTRL -/

theorem ctrlWritten_iff {s : State} :
    ctrlWritten s = true ↔ s.ports.host.hSel = true ∧ s.ports.host.hWe = true ∧ s.ports.host.hAddr = 0 := by
  simp only [ctrlWritten, Bool.and_eq_true, beq_iff_eq, and_assoc]

/-- The decoder reads OP alone (R126, R133). -/
theorem decodeHost_ctrlOp (s : State) : decodeHost s.ports.host.hWdata = decodeHost ((ctrlOp s).setWidth 32) := by
  simp [decodeHost, ctrlOp]

/-- A write of CTRL executes its command in HOST_IDLE, and otherwise REINIT alone (R300). -/
theorem hostAccess_ctrlWritten {before : State} (s : State) (h : ctrlWritten before = true) :
    hostAccess before s =
      if before.seq = .hostIdle ∨ decodeHost ((ctrlOp before).setWidth 32) = .reinit then
        exec (decodeHost ((ctrlOp before).setWidth 32)) s
      else .next s := by
  obtain ⟨hsel, hwe, haddr⟩ := ctrlWritten_iff.mp h
  rw [← decodeHost_ctrlOp]
  by_cases hi : before.seq = .hostIdle
  · simp [hostAccess, hsel, hwe, haddr, hi]
  · by_cases hr : decodeHost before.ports.host.hWdata = .reinit <;> simp [hostAccess, hsel, hwe, haddr, hi, hr]

theorem reinitWritten_eq {s : State} (h : ctrlWritten s = true) :
    reinitWritten s = decide (decodeHost ((ctrlOp s).setWidth 32) = .reinit) := by
  rw [← decodeHost_ctrlOp]
  exact (congrArg (· && _) h).trans (Bool.true_and _)

/-! ### A tick of Level C with and without the access -/

/-- The inputs of a tick are gone after it. -/
theorem nextCycle_setHost (h : HostCycle) (s : State) : nextCycle (setHost h s) = nextCycle s := by
  have hi : (setHost h s).inbox = s.inbox := rfl
  unfold nextCycle
  rw [hi]
  cases s.inbox <;> rfl

/-- Without an access a tick of Level C is the agents' part and the next inputs. -/
theorem step_setHost_idle {s : State} (ha : s.agentsMove) (hl : s.level = .cycle) :
    step (setHost .idle s) = onNext (agentsTick s) fun v => .next (showLine (nextCycle v)) := by
  rw [step_cycle (s := setHost .idle s) ⟨rfl, ha.2⟩ hl rfl, agentsTick_setHost]
  cases agentsTick s with
  | next v => simp only [onNext, hostAccess_unselected (before := setHost .idle s) rfl, nextCycle_setHost]
  | fault x => rfl
  | refused x => rfl

/-- A tick of Level C with an access whose whole effect is f, on registers that neither the next inputs nor `ow_in`
read, is the tick without the access, and then f. -/
theorem step_eq_quiet_then {s : State} {f : State → State} (ha : s.agentsMove) (hl : s.level = .cycle)
    (hr : reinitWritten s = false) (hacc : ∀ v, hostAccess s v = .next (f v))
    (hf : ∀ v, showLine (nextCycle (f v)) = f (showLine (nextCycle v))) :
    step s = onNext (step (setHost .idle s)) fun u => .next (f u) := by
  rw [step_cycle ha hl hr, step_setHost_idle ha hl]
  cases agentsTick s with
  | next v => simp only [onNext, hacc, hf]
  | fault x => rfl
  | refused x => rfl

/-- An access with no effect leaves the tick as it is without the access. -/
theorem step_eq_quiet {s : State} (ha : s.agentsMove) (hl : s.level = .cycle) (hr : reinitWritten s = false)
    (hacc : ∀ v, hostAccess s v = .next v) : step s = step (setHost .idle s) := by
  rw [step_eq_quiet_then (f := id) ha hl hr hacc fun _ => rfl]
  cases step (setHost .idle s) <;> rfl

/-- Acceptance writes the flags and CTL.seq, which neither the inputs nor the line depend on. -/
theorem showLine_nextCycle_acceptCommand (q : Seq) (v : State) :
    showLine (nextCycle (acceptCommand q v)) = acceptCommand q (showLine (nextCycle v)) := by
  by_cases h : v.seq = .hostIdle
  · rw [acceptCommand_hostIdle q h, acceptCommand_hostIdle q (by simpa using h)]
    cases hi : v.inbox <;> cases hl : v.level <;> simp [nextCycle, showLine, hi, hl] <;> rfl
  · rw [acceptCommand_busy q h, acceptCommand_busy q (by simpa using h)]

theorem engineTick_seq (p q : Bool) (s : State) : (engineTick p q s).seq = s.seq := by
  obtain ⟨g, b, d, o, c, r, ht, -, -⟩ := engineTick_change p q s
  rw [ht, setChannels_seq]

/-- In HOST_IDLE a tick without an access stays in HOST_IDLE: CONTROLLER makes no step. -/
theorem step_setHost_idle_hostIdle {s : State} (ha : s.agentsMove) (hl : s.level = .cycle) (hs : s.seq = .hostIdle) :
    ∃ u, step (setHost .idle s) = .next u ∧ u.seq = .hostIdle := by
  have htick : agentsTick s = .next (engineTick (!s.cmd.isEmpty) (!resFull s) (idleTick s)) := by
    simp only [agentsTick, controllerC_hostIdle hs]
  refine ⟨_, (step_setHost_idle ha hl).trans (by rw [htick]; rfl), ?_⟩
  rw [showLine_seq, nextCycle_seq, engineTick_seq]
  exact hs

/-- An accepted command at a tick of Level C in HOST_IDLE. -/
theorem step_accept {s u : State} {q : Seq} (ha : s.agentsMove) (hl : s.level = .cycle) (hr : reinitWritten s = false)
    (hacc : ∀ v, hostAccess s v = .next (acceptCommand q v)) (hu : step (setHost .idle s) = .next u)
    (hidle : u.seq = .hostIdle) :
    step s = .next { u with flags := ⟨false, false, false, false, false⟩, seq := q } := by
  rw [step_eq_quiet_then ha hl hr hacc (showLine_nextCycle_acceptCommand q), hu, ← acceptCommand_hostIdle q hidle]
  rfl

/-- Settles O8: the agents' part of a tick does not see the access, and what a command writes no later part of the tick
reads. -/
theorem hostCommandsInHostIdle : Obligations.HostCommandsInHostIdle := by
  intro s
  refine ⟨exec_nop s, fun ha hl hw => ⟨fun hop => ?_, fun hs => ?_⟩, fun hs => ⟨?_, ?_, ?_⟩⟩
  · refine step_eq_quiet ha hl (by rw [reinitWritten_eq hw, hop]; rfl) fun v => ?_
    rw [hostAccess_ctrlWritten v hw, hop]
    exact ite_self (exec .nop v)
  · obtain ⟨u, hu, hidle⟩ := step_setHost_idle_hostIdle ha hl hs
    refine ⟨u, hu, fun hop => ?_, fun hop => ?_⟩
    · refine step_accept ha hl (by rw [reinitWritten_eq hw, hop]; rfl) (fun v => ?_) hu hidle
      rw [hostAccess_ctrlWritten v hw, if_pos (.inl hs), hop]
      exact exec_discover v
    · refine step_accept ha hl (by rw [reinitWritten_eq hw, hop]; rfl) (fun v => ?_) hu hidle
      rw [hostAccess_ctrlWritten v hw, if_pos (.inl hs), hop]
      exact exec_sampleAll v
  · rw [exec_discover, acceptCommand_hostIdle _ hs]
  · rw [exec_sampleAll, acceptCommand_hostIdle _ hs]
  · intro i t hi ht
    rw [statusWord_busy]
    obtain rfl | rfl := hi
    · rw [exec_discover, acceptCommand_hostIdle _ hs] at ht
      cases ht; rfl
    · rw [exec_sampleAll, acceptCommand_hostIdle _ hs] at ht
      cases ht; rfl

/-- Settles O9: while a sequence runs a CTRL write other than REINIT has no effect at all. -/
theorem commandWhileBusyIsIgnored : Obligations.CommandWhileBusyIsIgnored := by
  intro s hs
  refine ⟨?_, ?_, fun ha hl hw hop => ?_⟩
  · rw [exec_discover, acceptCommand_busy _ hs]
  · rw [exec_sampleAll, acceptCommand_busy _ hs]
  · have hcmd : decodeHost ((ctrlOp s).setWidth 32) ≠ .reinit := by
      obtain h | h := hop <;> rw [h] <;> decide
    refine step_eq_quiet ha hl (by rw [reinitWritten_eq hw]; exact decide_eq_false hcmd) fun v => ?_
    rw [hostAccess_ctrlWritten v hw, if_neg (not_or.mpr ⟨hs, hcmd⟩)]

/-! ### REINIT -/

/-- The next inputs and `ow_in` are no registers: the reset values stay. -/
theorem atReset_showLine_nextCycle {s : State} (h : s.atReset) : (showLine (nextCycle s)).atReset := by
  simpa [State.atReset] using h

/-- The step in which the host writes REINIT, at either level: reset, then the next inputs; at Level C REINIT overrides
what CONTROLLER and ENGINE would do at the tick (R329, R362). -/
theorem step_reinit {s : State} (ha : s.agentsMove) (hw : ctrlWritten s = true) (hop : ctrlOp s = 3) :
    step s = .next (showLine (nextCycle (coreReset s))) := by
  have hcmd : decodeHost ((ctrlOp s).setWidth 32) = .reinit := by rw [hop]; rfl
  cases hl : s.level with
  | transaction =>
    obtain ⟨hsel, -, -⟩ := ctrlWritten_iff.mp hw
    have hT : stepT s = .next (coreReset s) := by
      rw [stepT, if_pos hsel, hostAccess_ctrlWritten s hw, if_pos (.inr hcmd), hcmd, exec_reinit]
    rw [step_transaction ha hl, hT]
    rfl
  | cycle =>
    have hC : stepC s = .next (coreReset s) := by
      rw [stepC, if_pos (by rw [reinitWritten_eq hw, hcmd]; rfl), exec_reinit]
    simp only [step, machineStep, moves, ha.1, ha.2, agentsStep, hl, hC, onNext, Bool.false_eq_true, if_false]

/-- Settles O10: as an operation and as a step REINIT is `coreReset`, whose registers have the reset values. -/
theorem reinitEqualsReset : Obligations.ReinitEqualsReset := by
  intro s
  refine ⟨⟨_, exec_reinit s, atReset_coreReset s, rfl, rfl, rfl⟩, fun ha hw hop => ?_⟩
  exact ⟨_, step_reinit ha hw hop, atReset_showLine_nextCycle (atReset_coreReset s), by simp, by simp, by simp⟩

end Sys2Proof.Machine
end

section
/-! PROOFS. Encoder and decoder agree, and every pattern has an effect (R120 to R127, R133). -/

namespace Sys2Proof.Machine

/-! ### Elements and their fields (R121, R132) -/

@[simp] theorem elemRst_byteElem (v : Byte) : elemRst (byteElem v) = false := by
  simp [elemRst, byteElem]

@[simp] theorem elemData_byteElem (v : Byte) : elemData (byteElem v) = v := by
  simp [elemData, byteElem]

@[simp] theorem elemRst_bitElem (b : Bool) : elemRst (bitElem b) = false := by cases b <;> rfl

@[simp] theorem elemData_bitElem (b : Bool) : elemData (bitElem b) = zext8 b := by cases b <;> rfl

@[simp] theorem elemRst_resetElem : elemRst resetElem = true := rfl

@[simp] theorem zext8_bit_zero (b : Bool) : (zext8 b).getLsbD 0 = b := by cases b <;> rfl

theorem byteElem_ne_resetElem (v : Byte) : byteElem v ≠ resetElem := fun h => by
  have := congrArg elemRst h
  simp at this

/-! ### Decoding the words of the encoder -/

theorem elemOfBytes_byteElem (v : Byte) : elemOfBytes v 0#8 = .ok (byteElem v) := rfl

theorem decode_bc_writeByte (v : Byte) : decode (.bc .byteDrop) [v, 0#8] = .ok (.writeByte v) := by
  have hne : byteElem v ≠ 0x100#9 := byteElem_ne_resetElem v
  simp [decode, elemOfBytes_byteElem, decodeBc, hne]

theorem decode_eng_eXfer8 (d : Byte) : decode (.eng .w8) [d, 0#8] = .ok (.eXfer8 d) := by
  simp [decode, elemOfBytes_byteElem, decodeElem]

/-- Settles O1: by the operation; only a byte operand stands for more than two words, and its element has bit 8 clear. -/
theorem everyInstructionDecodesBackFromItsWords : Obligations.EveryInstructionDecodesBackFromItsWords := by
  intro i hwf
  cases i with
  | writeByte v => exact decode_bc_writeByte v
  | eXfer8 d => exact decode_eng_eXfer8 d
  | writeBit b => cases b <;> rfl
  | setFraming w => cases w <;> rfl
  | eXfer1 b => cases b <;> rfl
  | eReinit w => cases w <;> rfl
  | tempDecode sp => exact if_pos (eq_of_beq hwf)
  | resDecode sp => exact if_pos (eq_of_beq hwf)
  | nop | discover | sampleAll | reinit | reset | readByte | readBit | eReset | searchCmd | addressOne | addressAll
  | startConversion | readScratchpad | crc8 s => rfl

/-- Settles O2: the ten words are read field by field. -/
theorem specWordsDecode : Obligations.SpecWordsDecode :=
  ⟨rfl, rfl, rfl, rfl, rfl, rfl, rfl, rfl, rfl, rfl⟩

/-! ### Every pattern has an effect (R133) -/

/-- A host word is one of the four operations of R126. -/
theorem decodeHost_cases (w : HWord) :
    decodeHost w = .nop ∨ decodeHost w = .discover ∨ decodeHost w = .sampleAll ∨ decodeHost w = .reinit := by
  unfold decodeHost
  split <;> simp

/-- The operation of a host word answers a next state in every state. -/
theorem exec_decodeHost_next (w : HWord) (s : State) : ∃ t, exec (decodeHost w) s = .next t := by
  obtain h | h | h | h := decodeHost_cases w <;> rw [h] <;> exact ⟨_, rfl⟩

/-- The operation of a popped element answers a next state in every state: it acts, or it waits. -/
theorem exec_decodeElem_next (w : Framing) (e : Elem) (s : State) : ∃ t, exec (decodeElem w e) s = .next t := by
  have hwait : ∀ (c : Bool) (u v : State),
      ∃ t, (if c = true then Host.Outcome.next u else .next v : Host.Outcome State Fault Refusal) = .next t := by
    intro c u v
    cases c <;> exact ⟨_, rfl⟩
  unfold decodeElem
  split
  · exact hwait _ _ _
  · cases w <;> exact hwait _ _ _

theorem decode_engSideband_efr (w : Framing) :
    decode .engSideband [if w.bit then 3#8 else 2#8] = .ok (.eReinit w) := by
  cases w <;> rfl

/-- An EFR word with reinit = 0 is no operation (R125). -/
theorem decode_engSideband_idle {b : Byte} (h : b.toNat < 2) : decode .engSideband [b] = .error .efrIdle := by
  obtain rfl | rfl : b = 0#8 ∨ b = 1#8 := by
    obtain h | h : b.toNat = 0 ∨ b.toNat = 1 := by omega
    · exact .inl (BitVec.eq_of_toNat_eq h)
    · exact .inr (BitVec.eq_of_toNat_eq h)
  all_goals rfl

/-- The step with a word at the issue port (notes/assumptions/1.md). -/
theorem step_issue {s : State} {q : Target × List Byte} (hr : s.ports.host.rst = false) (hq : s.issue = some q) :
    step s = onNext (issueStep q s) fun t => .next (showLine t) := by
  simp [step, machineStep, moves, hr, hq]

/-- Settles O4: the decoders of HCTRL and ECMD are total, and each operation they give acts or waits. -/
theorem noPatternIsIllegal : Obligations.NoPatternIsIllegal := by
  refine ⟨fun w s => ?_, fun e w s => ?_, fun w s => ?_, fun b s hb hr hq => ?_⟩
  · obtain ⟨t, ht⟩ := exec_decodeHost_next w s
    exact ⟨_, t, decode_host_natBytes w, ht⟩
  · obtain ⟨t, ht⟩ := exec_decodeElem_next w e s
    exact ⟨_, t, decode_eng_natBytes w e, ht⟩
  · exact ⟨_, decode_engSideband_efr w, exec_eReinit w s⟩
  · rw [step_issue hr hq, issueStep, decode_engSideband_idle hb]
    rfl

/-- Settles O5: the step's case on the decoded word is the statement. -/
theorem stepRunsTheIssuedInstruction : Obligations.StepRunsTheIssuedInstruction := by
  intro s q hr hq
  refine ⟨fun i hi hready => ?_, fun i hi hwait => ?_, fun e he hidle => ?_⟩
  · rw [step_issue hr hq, issueStep, hi]
    simp only [hready, if_true]
  · rw [step_issue hr hq, issueStep, hi]
    simp only [hwait, Bool.false_eq_true, if_false]
  · rw [step_issue hr hq, issueStep, he]
    cases e with
    | efrIdle => exact absurd rfl hidle
    | wrongLength | bitAboveFormat | otherElement | noWireByte => rfl

end Sys2Proof.Machine
end

section
/-! PROOFS. BusController's operations, the protocol bytes and ENGINE's elements as operations (R160 to R162, R200 to R207,
R262 to R268). -/

namespace Sys2Proof.Machine

/-! ### The nine operations that are one element -/

/-- What the operation makes of the result it pops (R200, R202, R204). -/
def useResult (i : Instr) (r : Byte) (s : State) : State :=
  match i with
  | .reset => setRet ((zext8 (!r.getLsbD 0)).setWidth 16) { s with presence := !r.getLsbD 0 }
  | .readByte => setRet (r.setWidth 16) s
  | .readBit => setRet ((zext8 (r.getLsbD 0)).setWidth 16) s
  | _ => s

/-- The result goes to `ret` and, of a RESET, to `BC.presence`; nowhere else. -/
theorem useResult_eq (i : Instr) (r : Byte) (s : State) : ∃ p v, useResult i r s = { s with presence := p, ret := v } ∧
    (i ≠ .reset → p = s.presence) ∧ (¬(i = .reset ∨ i = .readByte ∨ i = .readBit) → v = s.ret) := by
  cases i <;> exact ⟨_, _, rfl, by simp, by simp⟩

/-- Each of the nine is one push of its element and one pop (R206). -/
theorem exec_busElem {i : Instr} {e : Elem} (h : busElem i = some e) (s : State) :
    exec i s = bcOp e (useResult i) s := by
  cases i <;> cases h <;> rfl

theorem bcOp_of_transact {e : Elem} {k : Byte → State → State} {s u : State} {r : Byte}
    (h : transact e s = some (u, r)) : bcOp e k s = .next (k r u) := by
  rw [bcOp, h]

/-- Blocked, an operation changes nothing (R85; notes/assumptions/4.md). -/
theorem bcOp_blocked {e : Elem} {k : Byte → State → State} {s : State} (h : bcReady s = false) :
    bcOp e k s = .next s := by
  have hnone : transact e s = none := by
    rw [← Option.isSome_eq_false_iff.trans Option.isNone_iff_eq_none, transact_isSome, h]
  rw [bcOp, hnone]

theorem transact_of_bcReady (e : Elem) {s : State} (h : bcReady s = true) : ∃ u r, transact e s = some (u, r) := by
  obtain ⟨⟨u, r⟩, hu⟩ := Option.isSome_iff_exists.mp ((transact_isSome e s).trans h)
  exact ⟨u, r, hu⟩

/-- An operation of the test harness waits while the core's own sequence awaits a result (notes/assumptions/33.md). -/
theorem issueReady_pop {i : Instr} {s : State} {p : Place} (hi : busElem i ≠ none ∨ i = .addressOne)
    (hp : s.seq = .pop p) : issueReady i s = false := by
  have ha : awaitsResult s = true := by rw [awaitsResult, hp]
  cases i <;> simp [busElem] at hi <;> simp [issueReady, ha]

/-- Settles O23: the operation is `transact`, whose two ends are `transact_fifo` and whose capacity is `transact_move`. -/
theorem busOperationIsOnePushAndOnePop : Obligations.BusOperationIsOnePushAndOnePop := by
  intro i e s hi
  refine ⟨fun hready hc hr => ?_, fun hblocked => ?_, fun p hp => ?_⟩
  · obtain ⟨u, r, hu⟩ := transact_of_bcReady e hready
    obtain ⟨m, n, hcmd, hres, hlen⟩ := transact_fifo hu
    obtain ⟨g, b, d, o, c, q, hmove, -, -, hc', hr'⟩ := transact_move hu
    obtain ⟨p, v, hk, -⟩ := useResult_eq i r u
    refine ⟨_, r, m, n, (exec_busElem hi s).trans (bcOp_of_transact hu), ?_⟩
    rw [hk]
    subst hmove
    exact ⟨hcmd, hres, hlen, hc' hc, hr' hr⟩
  · rw [exec_busElem hi, bcOp_blocked hblocked]
  · exact ⟨issueReady_pop (.inl (by simp [hi])) hp, issueReady_pop (.inr rfl) hp⟩

/-! ### What the operations leave unchanged -/

/-- A BusController operation differs from the state before only in the channels, the bus and what its result is used for;
at Level T ENGINE's registers stay (R30). -/
theorem exec_busElem_frame {i : Instr} {s t : State} (hi : busElem i ≠ none) (h : exec i s = .next t) :
    (t = withChannelsOf t { s with
      presence := if i = .reset then t.presence else s.presence
      ret := if i = .reset ∨ i = .readByte ∨ i = .readBit then t.ret else s.ret }) ∧
    (s.level = .transaction → t.eng = s.eng) := by
  obtain ⟨e, he⟩ := Option.ne_none_iff_exists'.mp hi
  rw [exec_busElem he] at h
  rcases bcOp_next h with ⟨-, rfl⟩ | ⟨u, r, hu, rfl⟩
  · exact ⟨by simp only [ite_self]; rfl, fun _ => rfl⟩
  · obtain ⟨g, b, d, o, c, q, rfl, hg, -⟩ := transact_move hu
    obtain ⟨p, v, hk, hp, hv⟩ := useResult_eq i r (setChannels g b d o c q s)
    rw [hk]
    refine ⟨?_, fun hl => hg.transaction hl⟩
    have hp' : (if i = .reset then p else s.presence) = p := by
      split
      · rfl
      · exact (hp ‹_›).symm
    have hv' : (if i = .reset ∨ i = .readByte ∨ i = .readBit then v else s.ret) = v := by
      split
      · rfl
      · exact (hv ‹_›).symm
    simp only [hp', hv']
    rfl

/-- ADDRESS_ONE differs further in `DM.j` (R267). -/
theorem exec_addressOne_frame {s t : State} (h : exec .addressOne s = .next t) :
    t = withChannelsOf t { s with dm := { s.dm with j := t.dm.j } } ∧ (s.level = .transaction → t.eng = s.eng) := by
  simp only [exec, execAddressOne] at h
  split at h
  · next v hv =>
    cases h
    unfold addressOneSend at hv
    split at hv
    · cases hv
    · next w r hw =>
      obtain ⟨x, hx, rfl⟩ := sendBytes_move hv
      obtain ⟨g, b, d, o, c, q, rfl, hg, -⟩ := transact_move hw
      obtain ⟨g', b', d', o', c', q', rfl, hg', -⟩ := hx
      refine ⟨rfl, fun hl => ?_⟩
      exact (hg'.transaction hl).trans (hg.transaction hl)
  · cases h
    exact ⟨rfl, fun _ => rfl⟩

/-- One element performed at once, or nothing: the frame of E.RESET, E.XFER8 and E.XFER1 (R161, R162). -/
theorem channelFrame_of_eq {s t u : State} {g : Engine} {b : BusAgent} {d : Nat} {o : Bool} {r : Byte} {c : Bool}
    (hu : u = pushRes r (setEngine g (setBus b d o s))) (hg : EngineLeft s g)
    (h : (if c = true then Host.Outcome.next u else .next s : Host.Outcome State Fault Refusal) = .next t) :
    (t = withChannelsOf t s ∧ t.cmd = s.cmd) ∧ (s.level = .transaction → t.eng = s.eng) := by
  cases c
  · cases h
    exact ⟨⟨rfl, rfl⟩, fun _ => rfl⟩
  · cases h
    subst hu
    exact ⟨⟨rfl, rfl⟩, fun hl => hg.transaction hl⟩

/-- Everything a transfer performed in one step can do (R162). -/
theorem performXfer_eq (d : Byte) (s : State) :
    ∃ g b n o r, EngineLeft s g ∧ performXfer d s = pushRes r (setEngine g (setBus b n o s)) := by
  obtain ⟨b, n, o, h⟩ := slots_eq d s.framing.width 0 0#8 s
  obtain ⟨g, hg, ha⟩ := afterXfer_eq d (slots d s.framing.width 0 0#8 s)
  rw [h] at hg ha
  exact ⟨g, b, n, o, _, hg, by rw [performXfer, ha]⟩

/-- E.RESET, E.XFER8 and E.XFER1 leave CMD and all but the channels and the bus; at Level T ENGINE's registers too. -/
theorem exec_engineElem_frame {s t : State} {i : Instr} (hi : i = .eReset ∨ (∃ d, i = .eXfer8 d) ∨ ∃ b, i = .eXfer1 b)
    (h : exec i s = .next t) :
    (t = withChannelsOf t s ∧ t.cmd = s.cmd) ∧ (s.level = .transaction → t.eng = s.eng) := by
  have hxfer : ∀ d : Byte, execEXfer8 d s = .next t →
      (t = withChannelsOf t s ∧ t.cmd = s.cmd) ∧ (s.level = .transaction → t.eng = s.eng) := by
    intro d hd
    obtain ⟨g, b, n, o, r, hg, hp⟩ := performXfer_eq d s
    exact channelFrame_of_eq hp hg hd
  obtain rfl | ⟨d, rfl⟩ | ⟨b, rfl⟩ := hi
  · obtain ⟨g, b, n, o, r, hg, hp⟩ := performElem_eq resetElem s
    exact channelFrame_of_eq hp hg h
  · exact hxfer d h
  · exact hxfer (zext8 b) h

/-- Settles O24: each operation is made of pushes, pops and ENGINE's elements, whose frames are known. -/
theorem busOperationsFrame : Obligations.BusOperationsFrame := by
  intro s t
  refine ⟨fun i hi h => (exec_busElem_frame hi h).1, fun h => (exec_addressOne_frame h).1, fun d b h => ?_,
    fun i hi h hl => ?_⟩
  · obtain h | h | h := h
    · exact (exec_engineElem_frame (.inl rfl) h).1
    · exact (exec_engineElem_frame (.inr (.inl ⟨d, rfl⟩)) h).1
    · exact (exec_engineElem_frame (.inr (.inr ⟨b, rfl⟩)) h).1
  · obtain hi | rfl | hi := hi
    · exact (exec_busElem_frame hi h).2 hl
    · exact (exec_addressOne_frame h).2 hl
    · exact (exec_engineElem_frame hi h).2 hl

/-- Settles O30: ENGINE's step takes the head of CMD and performs it. -/
theorem engineStepTakesOneAndGivesOne : Obligations.EngineStepTakesOneAndGivesOne := by
  intro s t h
  obtain ⟨e, rest, hc, hfree, -⟩ := engineStep_cases h
  obtain ⟨g, b, d, o, r, e', hc', hg, ht⟩ := engineStep_frame h
  have hidle : busState s.eng.phase = .idle := by rw [((engineFree_iff s).mp hfree).1]; rfl
  have hres : t.res = s.res ++ [r] := by rw [ht, setChannels_res]
  have heng : t.eng = g := by rw [ht, setChannels_eng]
  refine ⟨⟨e', r, hc', hres, ?_⟩, hidle, fun hl => ?_⟩
  · rw [ht]; rfl
  · have hs : t.eng = s.eng := heng.trans (hg.transaction hl)
    exact ⟨by rw [hs]; exact hidle, hs⟩

end Sys2Proof.Machine
end

section
/-! PROOFS. The operations on a quiescent ENGINE, with their exact next states (R161, R162, R200 to R205, R267), and the
placing of a table word. -/

namespace Sys2Proof.Machine

/-! ### Changes the bus does not see -/

/-- f changes nothing the bus reads or writes: it can be done before or after a bus activity. -/
structure OffBus (f : State → State) : Prop where
  bus : ∀ s, (f s).bus = s.bus
  draws : ∀ s, (f s).draws = s.draws
  owIn : ∀ s, (f s).ports.owIn = s.ports.owIn
  setBus : ∀ b d o s, f (setBus b d o s) = setBus b d o (f s)

section
variable {f : State → State} (hf : OffBus f)
include hf

theorem sampleLevel_offBus (s : State) : sampleLevel (f s) = (f (sampleLevel s).1, (sampleLevel s).2) := by
  unfold sampleLevel
  rw [hf.bus, hf.draws]
  split <;> rw [hf.setBus]

theorem busReset_offBus (s : State) : busReset (f s) = (f (busReset s).1, (busReset s).2) := by
  unfold busReset
  rw [hf.bus, hf.draws]
  split
  · rw [hf.setBus]
  · exact sampleLevel_offBus hf s

theorem busSlot_offBus (m : Bool) (s : State) : busSlot m (f s) = (f (busSlot m s).1, (busSlot m s).2) := by
  unfold busSlot
  rw [hf.bus, hf.draws, hf.owIn]
  split
  · simp only [hf.setBus]
  · cases m
    · rfl
    · exact sampleLevel_offBus hf s

theorem slots_offBus (d : Byte) (n k : Nat) (r : Byte) (s : State) :
    slots d n k r (f s) = (f (slots d n k r s).1, (slots d n k r s).2) := by
  induction n generalizing k r s with
  | zero => rfl
  | succ n ih => simp only [slots, busSlot_offBus hf, ih]

end

/-! ### Elements on a quiescent ENGINE -/

theorem setBit_zero_zero (b : Bool) : setBit 0#8 0 b = if b then 1#8 else 0#8 := by cases b <;> rfl

/-- A transfer in 1-bit framing is one slot with bit 0 of its data. -/
theorem slots_one (d : Byte) (s : State) :
    slots d 1 0 0#8 s = ((busSlot (d.getLsbD 0) s).1, if (busSlot (d.getLsbD 0) s).2 then 1#8 else 0#8) := by
  simp only [slots, setBit_zero_zero]

/-- A transfer operation on a quiescent ENGINE (R201 to R204). -/
theorem exec_transfer_quiescent {i : Instr} {e : Elem} {s : State} (hi : busElem i = some e) (he : elemRst e = false)
    (hq : quiescent s = true) (hd : 0 < s.par.fifoDepth) :
    exec i s = .next (useResult i (slots (elemData e) s.framing.width 0 0#8 s).2
      (afterXfer (elemData e) (slots (elemData e) s.framing.width 0 0#8 s))) := by
  rw [exec_busElem hi, bcOp_quiescent e _ s hq hd, he]
  rfl

/-- In 8-bit framing it performs the eight slots of its data (R201, R202, R207). -/
theorem exec_transfer_w8 {i : Instr} {e : Elem} {s : State} (hi : busElem i = some e) (he : elemRst e = false)
    (hq : quiescent s = true) (hd : 0 < s.par.fifoDepth) (hw : s.framing = .w8) :
    exec i s = .next (useResult i (slots (elemData e) 8 0 0#8 s).2 (eightSlots (elemData e) s)) := by
  rw [exec_transfer_quiescent hi he hq hd, hw]
  rfl

/-- In 1-bit framing it performs one slot with bit 0 of its data (R203, R204, R207). -/
theorem exec_transfer_w1 {i : Instr} {e : Elem} {s : State} (hi : busElem i = some e) (he : elemRst e = false)
    (hq : quiescent s = true) (hd : 0 < s.par.fifoDepth) (hw : s.framing = .w1) :
    exec i s = .next (useResult i (if (busSlot ((elemData e).getLsbD 0) s).2 then 1#8 else 0#8)
      (oneSlot (elemData e) s)) := by
  have hwidth : s.framing.width = 1 := by rw [hw]; rfl
  rw [exec_transfer_quiescent hi he hq hd, hwidth, slots_one]
  rfl

theorem busElem_writeByte (v : Byte) : busElem (.writeByte v) = some (byteElem v) := rfl
theorem busElem_readByte : busElem .readByte = some (byteElem 0xFF#8) := rfl
theorem busElem_writeBit (b : Bool) : busElem (.writeBit b) = some (bitElem b) := rfl
theorem busElem_readBit : busElem .readBit = some (bitElem true) := rfl

/-- Settles O20: the byte's element is a transfer of the byte, and its result is dropped or goes to `ret`. -/
theorem byteOperationsPerformTheirSlots : Obligations.ByteOperationsPerformTheirSlots := by
  intro s hq hd
  refine ⟨fun hw => ⟨fun v => ?_, ?_⟩, fun hw => ⟨fun v => ?_, ?_⟩⟩
  · rw [exec_transfer_w8 (busElem_writeByte v) (elemRst_byteElem v) hq hd hw, elemData_byteElem]
    rfl
  · rw [exec_transfer_w8 busElem_readByte (elemRst_byteElem _) hq hd hw, elemData_byteElem]
    rfl
  · rw [exec_transfer_w1 (busElem_writeByte v) (elemRst_byteElem v) hq hd hw, elemData_byteElem]
    rfl
  · rw [exec_transfer_w1 busElem_readByte (elemRst_byteElem _) hq hd hw, elemData_byteElem]
    have hbit : (0xFF#8).getLsbD 0 = true := rfl
    rw [hbit]
    cases (busSlot true s).2 <;> rfl

/-- Settles O21: a bit's element is the transfer of the byte whose bit 0 it is. -/
theorem bitOperationsPerformTheirSlots : Obligations.BitOperationsPerformTheirSlots := by
  intro s hq hd
  refine ⟨fun hw => ⟨fun b => ?_, ?_⟩, fun hw => ⟨fun b => ?_, ?_⟩⟩
  · rw [exec_transfer_w1 (busElem_writeBit b) (elemRst_bitElem b) hq hd hw, elemData_bitElem]
    rfl
  · rw [exec_transfer_w1 busElem_readBit (elemRst_bitElem _) hq hd hw, elemData_bitElem, zext8_bit_zero]
    cases (busSlot true s).2 <;> rfl
  · rw [exec_transfer_w8 (busElem_writeBit b) (elemRst_bitElem b) hq hd hw, elemData_bitElem]
    rfl
  · rw [exec_transfer_w8 busElem_readBit (elemRst_bitElem _) hq hd hw, elemData_bitElem]
    have hone : zext8 true = 1#8 := rfl
    rw [hone]
    cases h : (slots 1#8 8 0 0#8 s).2.getLsbD 0 <;> simp only [useResult, h] <;> rfl

/-- Settles O25: the four rows push the element that WRITE_BYTE pushes. -/
theorem protocolBytesAreSentAsWriteByteData : Obligations.ProtocolBytesAreSentAsWriteByteData := by
  intro s
  refine ⟨⟨rfl, rfl, rfl, rfl⟩, fun hq hd hw => ?_⟩
  have hbyte : ∀ v : Byte, exec (.writeByte v) s = .next (eightSlots v s) :=
    ((byteOperationsPerformTheirSlots s hq hd).1 hw).1
  exact ⟨hbyte _, hbyte _, hbyte _, hbyte _⟩

/-! ### The reset sequence -/

/-- After a reset sequence: the level in `ENG.isr` and the recovery begun at Level C, no registers at Level T
(R168 to R170, R30). -/
theorem afterReset_busReset (s : State) :
    afterReset (busReset s) = { (busReset s).1 with
      eng := if s.level = .cycle then
        { s.eng with
          phase := .rstRec, cnt := s.par.tRstrec, isr := if (busReset s).2 then 1 else 0, drive := false }
        else s.eng } := by
  have heng := busReset_eng s
  have hpar := busReset_par s
  have hlevel := busReset_level s
  unfold afterReset leaveEngine
  rw [hlevel, heng, hpar]
  cases s.level with
  | transaction => rw [if_neg (by decide), ← heng]
  | cycle => rw [if_pos rfl]; rfl

/-- In the recovery, with the channels empty, nothing that is one element can be done (R170, R372). -/
theorem bcReady_recovery {s : State} (hp : s.eng.phase ≠ .idle) (hc : s.cmd = []) (hr : s.res = [])
    (hd : 0 < s.par.fifoDepth) : bcReady s = false := by
  have hfree : engineFree s = false := by simp [engineFree, hp]
  simp [bcReady, cmdFull, hc, hr, hd, hfree]

theorem issueReady_of_busElem {i : Instr} {s : State} (hi : busElem i ≠ none) (h : bcReady s = false) :
    issueReady i s = false := by
  cases i <;> simp [busElem] at hi <;> simp [issueReady, h]

theorem exec_setFraming_quiescent {s : State} (w : Framing) (h : quiescent s = true) :
    exec (.setFraming w) s = .next (engineReinit w s) := if_pos h

theorem exec_setFraming_refused {s : State} (w : Framing) (h : quiescent s = false) :
    exec (.setFraming w) s = .refused .framingNotQuiescent :=
  if_neg (Bool.eq_false_iff.mp h)

/-- A SET_FRAMING on empty channels writes FRAMING and ENGINE's registers alone (R176, R205). -/
theorem engineReinit_empty {w : Framing} {s : State} (hc : s.cmd = []) (hr : s.res = []) :
    engineReinit w s = { s with framing := w, eng := .reset } := by
  rw [engineReinit, ← hc, ← hr]

/-- On a quiescent ENGINE the flush of E.REINIT finds the channels empty. -/
theorem engineReinit_quiescent {s : State} (w : Framing) (h : quiescent s = true) :
    engineReinit w s = { s with framing := w, eng := .reset } := by
  obtain ⟨-, hc, hr⟩ := (quiescent_iff s).mp h
  exact engineReinit_empty hc hr

/-- Settles O22: SET_FRAMING tests `quiescent` and nothing else. -/
theorem setFramingNeedsAQuiescentEngine : Obligations.SetFramingNeedsAQuiescentEngine := fun s w =>
  ⟨fun h => by rw [exec_setFraming_quiescent w h, engineReinit_quiescent w h, Engine.reset], exec_setFraming_refused w⟩

/-- In the recovery with the channels empty every operation that is one element waits, and SET_FRAMING is refused
(R170, R372, R373). -/
theorem recovery_blocks {t : State} (hp : t.eng.phase = .rstRec) (hc : t.cmd = []) (hr : t.res = [])
    (hd : 0 < t.par.fifoDepth) :
    (∀ i, busElem i ≠ none → issueReady i t = false ∧ exec i t = .next t) ∧
      ∀ w, exec (.setFraming w) t = .refused .framingNotQuiescent := by
  have hblocked : bcReady t = false := bcReady_recovery (by simp [hp]) hc hr hd
  refine ⟨fun i hi => ⟨issueReady_of_busElem hi hblocked, ?_⟩, fun w => exec_setFraming_refused w ?_⟩
  · obtain ⟨e, he⟩ := Option.ne_none_iff_exists'.mp hi
    rw [exec_busElem he, bcOp_blocked hblocked]
  · simp [quiescent, hp]

/-- Settles O19: the result popped is the level of the RESET's own sample. -/
theorem resetOperationRecordsPresence : Obligations.ResetOperationRecordsPresence := by
  intro s hq hd
  obtain ⟨hidle, hc, hr⟩ := (quiescent_iff s).mp hq
  refine ⟨_, ?_, rfl, fun hl => ?_⟩
  · rw [exec_busElem (i := .reset) rfl, bcOp_quiescent _ _ s hq hd]
    simp only [afterReset_busReset, useResult]
    cases (busReset s).2 <;> rfl
  · exact recovery_blocks (by simp [hl]) (by simpa using hc) (by simpa using hr) (by simpa using hd)

/-! ### ENGINE's operations alone -/

theorem engineFree_of {s : State} (hp : s.eng.phase = .idle) (hr : s.res.length < s.par.fifoDepth) :
    engineFree s = true := (engineFree_iff s).mpr ⟨hp, hr⟩

theorem engineFree_resFull {s : State} (hr : s.par.fifoDepth ≤ s.res.length) : engineFree s = false := by
  rw [Bool.eq_false_iff, ne_eq, engineFree_iff]
  omega

@[simp] theorem afterXfer_res (d : Byte) (x : State × Byte) : (afterXfer d x).res = x.1.res := by
  obtain ⟨g, -, h⟩ := afterXfer_eq d x
  rw [h, setEngine_res]

/-- Settles O27: with room in RES the level goes behind the elements that are there. -/
theorem engineResetPushesTheRawLevel : Obligations.EngineResetPushesTheRawLevel := by
  intro s hp
  refine ⟨fun hr => ?_, fun hr => ?_⟩
  · rw [exec, execEReset, if_pos (engineFree_of hp hr)]
    simp only [performReset, afterReset_busReset, pushRes, busReset_res]
    rfl
  · rw [exec, execEReset, engineFree_resFull hr]
    rfl

/-- Settles O28: with room in RES the transfer's result goes behind the elements that are there. -/
theorem engineTransferPushesOneResult : Obligations.EngineTransferPushesOneResult := by
  intro s hp
  refine ⟨fun hr => ⟨fun hw d => ?_, fun hw b => ?_⟩, fun hr d b => ?_⟩
  · have hwidth : s.framing.width = 8 := by rw [hw]; rfl
    rw [exec, execEXfer8, if_pos (engineFree_of hp hr)]
    simp only [performXfer, pushRes, hwidth, afterXfer_res, slots_res]
    rfl
  · have hwidth : s.framing.width = 1 := by rw [hw]; rfl
    rw [exec, execEXfer1, if_pos (engineFree_of hp hr)]
    simp only [performXfer, pushRes, hwidth, afterXfer_res, slots_one, busSlot_res, oneSlot, zext8]
    cases b <;> rfl
  · rw [exec, exec, execEXfer8, execEXfer1, engineFree_resFull hr]
    exact ⟨rfl, rfl⟩

/-! ### ADDRESS_ONE -/

/-- The eight slots of a byte leave a quiescent ENGINE quiescent. -/
theorem quiescent_afterXfer {d : Byte} {n : Nat} {s : State} (hq : quiescent s = true) :
    quiescent (afterXfer d (slots d n 0 0#8 s)) = true := by
  obtain ⟨hp, hc, hr⟩ := (quiescent_iff s).mp hq
  rw [afterXfer, leaveEngine_eq, quiescent_iff]
  refine ⟨?_, by simpa using hc, by simpa using hr⟩
  rw [setEngine_eng, slots_level]
  cases s.level
  · simpa using hp
  · rfl

@[simp] theorem eightSlots_par (d : Byte) (s : State) : (eightSlots d s).par = s.par := by
  simp [eightSlots, afterXfer, leaveEngine_eq]
@[simp] theorem eightSlots_framing (d : Byte) (s : State) : (eightSlots d s).framing = s.framing := by
  simp [eightSlots, afterXfer, leaveEngine_eq]
@[simp] theorem eightSlots_dm (d : Byte) (s : State) : (eightSlots d s).dm = s.dm := by
  simp [eightSlots, afterXfer, leaveEngine_eq]

/-- A change of `DM.j` can be done before or after the slots of a byte. -/
def setJ (j : BitVec 4) (s : State) : State := { s with dm := { s.dm with j := j } }

theorem setJ_offBus (j : BitVec 4) : OffBus (setJ j) :=
  ⟨fun _ => rfl, fun _ => rfl, fun _ => rfl, fun _ _ _ _ => rfl⟩

theorem eightSlots_setJ (d : Byte) (j : BitVec 4) (s : State) : eightSlots d (setJ j s) = setJ j (eightSlots d s) := by
  have hl : (setJ j s).level = s.level := rfl
  rw [eightSlots, eightSlots, slots_offBus (setJ_offBus j), afterXfer, afterXfer, leaveEngine_eq, leaveEngine_eq]
  rfl

theorem setJ_setJ (j j' : BitVec 4) (s : State) : setJ j (setJ j' s) = setJ j s := rfl

theorem afterBytes_cons (b : Byte) (bs : List Byte) (s : State) :
    afterBytes (b :: bs) s = afterBytes bs (eightSlots b s) := rfl

theorem afterBytes_setJ (bs : List Byte) (j : BitVec 4) (s : State) :
    afterBytes bs (setJ j s) = setJ j (afterBytes bs s) := by
  induction bs generalizing s with
  | nil => rfl
  | cons b bs ih => exact (congrArg (afterBytes bs) (eightSlots_setJ b j s)).trans (ih (eightSlots b s))

@[simp] theorem afterBytes_dm (bs : List Byte) (s : State) : (afterBytes bs s).dm = s.dm := by
  induction bs generalizing s with
  | nil => rfl
  | cons b bs ih => exact (ih (eightSlots b s)).trans (eightSlots_dm b s)

/-- WRITE_BYTE's push and pop on a quiescent ENGINE in 8-bit framing (R201). -/
theorem transact_byteElem_w8 {b : Byte} {s : State} (hq : quiescent s = true) (hd : 0 < s.par.fifoDepth)
    (hw : s.framing = .w8) :
    transact (byteElem b) s = some (eightSlots b s, (slots b 8 0 0#8 s).2) := by
  rw [transact_quiescent _ s hq hd, elemRst_byteElem, elemData_byteElem, hw]
  rfl

/-- Several bytes in order: their slots, and `DM.j` counts them (R91, R267). -/
theorem sendBytes_w8 {bs : List Byte} {s : State} (hq : quiescent s = true) (hd : 0 < s.par.fifoDepth)
    (hw : s.framing = .w8) :
    sendBytes bs s = some (setJ (s.dm.j + BitVec.ofNat 4 bs.length) (afterBytes bs s)) := by
  induction bs generalizing s with
  | nil => simp [sendBytes, setJ, afterBytes]
  | cons b bs ih =>
    have hnext : sendBytes (b :: bs) s = sendBytes bs (setJ (s.dm.j + 1) (eightSlots b s)) := by
      rw [sendBytes, transact_byteElem_w8 hq hd hw]
      simp only [eightSlots_dm, setJ]
    have hcount : s.dm.j + 1 + BitVec.ofNat 4 bs.length = s.dm.j + BitVec.ofNat 4 (b :: bs).length := by
      rw [List.length_cons, BitVec.add_assoc, Nat.add_comm, BitVec.ofNat_add]
      rfl
    have hrest := ih (s := setJ (s.dm.j + 1) (eightSlots b s)) (quiescent_afterXfer (d := b) (n := 8) hq)
      (by simpa [setJ] using hd) (by simpa [setJ] using hw)
    rw [hnext, hrest, afterBytes_setJ]
    have hj : (setJ (s.dm.j + 1) (eightSlots b s)).dm.j = s.dm.j + 1 := rfl
    rw [hj, hcount]
    rfl

theorem romByte_getLsbD (code : RomCode) (j : Nat) {b : Nat} (hb : b < 8) :
    (romByte code j).getLsbD b = code.getLsbD (8 * j + b) := by
  simp [romByte, hb]

theorem romBytes_getD (code : RomCode) {j : Nat} (hj : j < 8) : (romBytes code).getD j 0 = romByte code j := by
  interval_cases j <;> rfl

/-- Settles O26: each byte finds ENGINE quiescent, and bit b of byte j is bit 8j + b. -/
theorem addressOneSendsTheRomCode : Obligations.AddressOneSendsTheRomCode := by
  refine ⟨fun s code hq hd hw hcode => ?_, fun code j b hj hb => ⟨rfl, ?_⟩⟩
  · have hfirst : transact (byteElem addressOneByte) s = some (eightSlots 0x55#8 s, (slots 0x55#8 8 0 0#8 s).2) :=
      transact_byteElem_w8 hq hd hw
    have hrest := sendBytes_w8 (bs := romBytes code) (s := setJ 0 (eightSlots 0x55#8 s))
      (quiescent_afterXfer (d := 0x55#8) (n := 8) hq) (by simpa [setJ] using hd) (by simpa [setJ] using hw)
    have hcount : (setJ 0 (eightSlots 0x55#8 s)).dm.j + BitVec.ofNat 4 (romBytes code).length = 8 := rfl
    have hsend : addressOneSend s = some (setJ 8 (afterBytes (romBytes code) (eightSlots 0x55#8 s))) := by
      rw [hcount, afterBytes_setJ, setJ_setJ] at hrest
      rw [addressOneSend, romEntry_of_getElem? hcode, hfirst, ← hrest, setJ]
    simp only [exec, execAddressOne, hsend, afterBytes_cons, setJ]
  · rw [romBytes_getD code hj, romByte_getLsbD code j hb]

/-! ### Level and the functions -/

/-- Settles O32: each function writes its result to `ret`, CRC8 also its accumulator. -/
theorem functionsCompleteAndReadOnlyTheirArgument : Obligations.FunctionsCompleteAndReadOnlyTheirArgument :=
  fun _ _ => ⟨rfl, rfl, rfl⟩

/-- No operation changes the level of the run (R11; notes/assumptions/12.md). -/
theorem exec_level {i : Instr} {s t : State} (h : exec i s = .next t) : t.level = s.level := by
  rcases exec_effects h with rfl | ⟨-, rfl⟩ | ⟨-, -, rfl | rfl⟩ | ⟨w, -, rfl⟩ | ⟨n, u, p, v, j, c, hu, -, rfl⟩
  · rfl
  · rfl
  · rfl
  · rfl
  · rfl
  · obtain ⟨g, b, d, o, c', q, rfl, -⟩ := hu
    rfl

/-- At Level T an operation is followed by nothing that `ow_in` would show (notes/assumptions/9.md). -/
theorem onNext_exec_showLine {i : Instr} {s : State} (hl : s.level = .transaction) :
    onNext (exec i s) (fun t => .next (showLine t)) = exec i s := by
  cases h : exec i s with
  | next t => exact congrArg Host.Outcome.next (showLine_transaction ((exec_level h).trans hl))
  | fault x => rfl
  | refused x => rfl

/-! ### A placed table word -/

/-- A byte sent on a quiescent ENGINE leaves it quiescent, in either framing. -/
theorem sendBytes_quiescent {bs : List Byte} {s : State} (hq : quiescent s = true) (hd : 0 < s.par.fifoDepth) :
    (sendBytes bs s).isSome = true := by
  induction bs generalizing s with
  | nil => rfl
  | cons b bs ih =>
    rw [sendBytes, transact_quiescent _ s hq hd, elemRst_byteElem, elemData_byteElem]
    exact ih (quiescent_afterXfer hq) (by simpa [afterXfer, leaveEngine_eq] using hd)

/-- In an idle, quiescent core no operation has to wait at the issue port. -/
theorem issueReady_idle (i : Instr) {s : State} (hs : s.seq = .hostIdle) (hq : quiescent s = true)
    (hd : 0 < s.par.fifoDepth) : issueReady i s = true := by
  obtain ⟨hp, hc, hr⟩ := (quiescent_iff s).mp hq
  have hfree : engineFree s = true := engineFree_of hp (by rw [hr]; exact hd)
  have hbc : bcReady s = true := by simp [bcReady, cmdFull, hc, hd, hfree]
  have hawait : awaitsResult s = false := by rw [awaitsResult, hs]
  have hone : (addressOneSend s).isSome = true := by
    rw [addressOneSend, transact_quiescent _ s hq hd, elemRst_byteElem, elemData_byteElem]
    exact sendBytes_quiescent (quiescent_afterXfer (d := addressOneByte) hq)
      (by simpa [afterXfer, leaveEngine_eq] using hd)
  cases i <;> simp [issueReady, hfree, hbc, hawait, hone]

/-- A table word has 32 bits exactly if the host port takes it, as the word's own four bytes. -/
theorem tableFetch_host {nbits w : Nat} {t : Target} {bs : List Byte} (h : tableFetch nbits w = some (t, bs)) :
    (nbits = 32 → t = .host ∧ bs = natBytes 4 w) ∧ (nbits ≠ 32 → t ≠ .host) := by
  unfold tableFetch at h
  refine ⟨fun hn => ?_, fun hn => ?_⟩
  · rw [if_pos hn] at h
    split at h
    · cases h; exact ⟨rfl, rfl⟩
    · cases h
  · rw [if_neg hn] at h
    repeat' split at h
    all_goals
      cases h
      try exact Target.noConfusion

theorem decodeTableWord_cases {nbits w : Nat} {i : Instr} (h : decodeTableWord nbits w = some i) :
    ∃ t bs, tableFetch nbits w = some (t, bs) ∧ decode t bs = .ok i := by
  unfold decodeTableWord at h
  split at h
  · cases h
  · next t bs hf =>
    split at h
    · next j hj => cases h; exact ⟨t, bs, hf, hj⟩
    · cases h

/-- A HOST word is placed as a write of CTRL. -/
theorem withFetchWord_host {s : State} {nbits w : Nat} {bs : List Byte} (h : tableFetch nbits w = some (.host, bs)) :
    s.withFetchWord nbits w = { s with
      ports := { s.ports with host := { rst := false, hSel := true, hWe := true, hAddr := 0, hWdata := BitVec.ofNat 32 w } }
      issue := none } := by
  rw [State.withFetchWord, placeWord, h]

/-- Any other table word is placed at the issue port. -/
theorem withFetchWord_issue {s : State} {nbits w : Nat} {t : Target} {bs : List Byte} (ht : t ≠ .host)
    (h : tableFetch nbits w = some (t, bs)) :
    s.withFetchWord nbits w = { s with
      ports := { s.ports with host := { s.ports.host with rst := false } }, issue := some (t, bs) } := by
  rw [State.withFetchWord, placeWord, h]
  cases t <;> first | rfl | exact absurd rfl ht

/-- At Level T a CTRL write in HOST_IDLE is the whole step (R300; notes/assumptions/3.md). -/
theorem step_ctrlWrite_transaction {s : State} (ha : s.agentsMove) (hl : s.level = .transaction)
    (hw : ctrlWritten s = true) (hi : s.seq = .hostIdle ∨ decodeHost s.ports.host.hWdata = .reinit) :
    step s = onNext (exec (decodeHost s.ports.host.hWdata) s) fun t => .next (nextCycle t) := by
  have hacc : hostAccess s s = exec (decodeHost s.ports.host.hWdata) s := by
    rw [decodeHost_ctrlOp] at hi ⊢
    rw [hostAccess_ctrlWritten s hw, if_pos hi]
  rw [step_transaction ha hl, stepT, if_pos (ctrlWritten_iff.mp hw).1, hacc]
  cases h : exec (decodeHost s.ports.host.hWdata) s with
  | next t =>
    exact congrArg Host.Outcome.next (showLine_transaction (by rw [nextCycle_level, exec_level h, hl]))
  | fault x => rfl
  | refused x => rfl

/-- Settles O7: a HOST word is decoded by the step from the CTRL write, any other from the issue port, where nothing
has to wait. -/
theorem placedTableWordIsRunNext : Obligations.PlacedTableWordIsRunNext := by
  intro s nbits w i hl hs hq hd hi
  obtain ⟨t, bs, hf, hdec⟩ := decodeTableWord_cases hi
  by_cases hn : nbits = 32
  · obtain ⟨rfl, rfl⟩ := (tableFetch_host hf).1 hn
    have hword : decodeHost (BitVec.ofNat 32 w) = i := by
      simp only [natBytes, decode, ofNat_div_append_ofNat] at hdec
      exact Except.ok.inj hdec
    rw [if_pos hn, withFetchWord_host hf, ← hword]
    exact step_ctrlWrite_transaction ⟨rfl, rfl⟩ hl rfl (.inl hs)
  · rw [if_neg hn, withFetchWord_issue ((tableFetch_host hf).2 hn) hf]
    refine ((stepRunsTheIssuedInstruction { s with
      ports := { s.ports with host := { s.ports.host with rst := false } }, issue := some (t, bs) }
      (t, bs) rfl rfl).1 i hdec (issueReady_idle i hs hq hd)).trans ?_
    exact onNext_exec_showLine hl

end Sys2Proof.Machine
end

section
/-! PROOFS. Everything a step of CONTROLLER can be, said once, and the first invariant: ranges, sizes and capacities
(R45, R46, R49 to R52, R87). -/

namespace Sys2Proof.Machine

/-! ### CONTROLLER's steps -/

/-- CONTROLLER's steps by the place of `CTL.seq` (R20, R47), with the width of a SET_FRAMING. -/
inductive CtlStep (ex gd : Bool) (s : State) : Option Framing → State → Prop
  | discoverStart (h : s.seq = .discoverStart) : CtlStep ex gd s none (atSearchStart { s with rdgCount := 0 })
  | searchStart (h : s.seq = .searchStart) : CtlStep ex gd s none (atSearchStart s)
  | searchExit (h : s.seq = .searchExit) : CtlStep ex gd s none { s with seq := .hostIdle }
  | sampleStart (h : s.seq = .sampleStart) : CtlStep ex gd s none { s with rdgCount := 0, seq := .push .sampleReset }
  | readAll (h : s.seq = .readAll) : CtlStep ex gd s none (atReadAll s)
  | dev (h : s.seq = .dev) : CtlStep ex gd s none (atDev s)
  | sampleDone (h : s.seq = .sampleDone) : CtlStep ex gd s none { s with rdgCount := s.romCount, seq := .hostIdle }
  | push (p : Place) (h : s.seq = .push p) (hroom : cmdFull s = false) :
      CtlStep ex gd s none { pushCmd (placeElem p s) s with seq := .pop p }
  | pop (p : Place) (r : Byte) (rest : List Byte) (h : s.seq = .pop p) (hres : s.res = r :: rest) :
      CtlStep ex gd s (popFraming p r { s with res := rest }) (afterPop ex p r { s with res := rest })
  | pollGap (h : s.seq = .pollGap) (hdone : gd = true) :
      CtlStep ex gd s none { s with dm := { s.dm with gapT := 0 }, seq := .push .pollRead }

theorem ctlStep_cases {ex gd : Bool} {s t : State} {w : Option Framing} (h : ctlStep ex gd s = some (w, t)) :
    CtlStep ex gd s w t := by
  unfold ctlStep at h
  split at h
  · cases h
  · cases h; exact .discoverStart ‹_›
  · cases h; exact .searchStart ‹_›
  · cases h; exact .searchExit ‹_›
  · cases h; exact .sampleStart ‹_›
  · cases h; exact .readAll ‹_›
  · cases h; exact .dev ‹_›
  · cases h; exact .sampleDone ‹_›
  · split at h
    · cases h
    · cases h; exact .push _ ‹_› (Bool.eq_false_iff.mpr ‹_›)
  · obtain ⟨x, hx, hy⟩ := Option.map_eq_some_iff.mp h
    obtain ⟨r, rest, hr, rfl⟩ := popRes_cases hx
    cases hy
    exact .pop _ r rest ‹_› hr
  · split at h
    · cases h; exact .pollGap ‹_› ‹_›
    · cases h

/-- The code of a pass stored behind the earlier ones (R241). -/
def withCode (s : State) : State := { s with rom := s.rom.set s.romCount.toNat s.rs.rom, romCount := s.romCount + 1 }

/-- The three ends of a pass: no branch remains; one remains and there is room; one remains and the table is full
(R241, R242, R244). -/
theorem recordPass_cases (s : State) :
    (s.rs.new = none ∧ recordPass s = { withCode s with seq := .hostIdle }) ∨
    (s.rs.new ≠ none ∧ (s.romCount + 1).toNat ≠ s.par.nMax ∧
      recordPass s = { withCode s with rs := { s.rs with last := s.rs.new }, seq := .push .passReset }) ∨
    (s.rs.new ≠ none ∧ (s.romCount + 1).toNat = s.par.nMax ∧
      recordPass s = { withCode s with flags := { s.flags with tableFull := true }, seq := .hostIdle }) := by
  have hnone : s.rs.new = none → s.rs.new.isSome = false := fun h => by rw [h]; rfl
  have hsome : s.rs.new ≠ none → s.rs.new.isSome = true := Option.isSome_iff_ne_none.mpr
  by_cases hnew : s.rs.new = none
  · refine .inl ⟨hnew, ?_⟩
    simp only [recordPass, raiseIf, tableFull, hnone hnew, Bool.false_and, Bool.false_eq_true, if_false]
    rfl
  · by_cases hfull : (s.romCount + 1).toNat = s.par.nMax
    · refine .inr (.inr ⟨hnew, hfull, ?_⟩)
      simp only [recordPass, raiseIf, tableFull, hsome hnew, hfull, BEq.rfl, Bool.and_self, Bool.not_true,
        Bool.and_false, Bool.false_eq_true, if_false, if_true]
      rfl
    · refine .inr (.inl ⟨hnew, hfull, ?_⟩)
      simp only [recordPass, raiseIf, tableFull, hsome hnew, beq_false_of_ne hfull, Bool.and_false, Bool.not_false,
        Bool.and_self, Bool.false_eq_true, if_false, if_true]
      rfl

/-! ### Ranges and sizes -/

/-- The part of `State.wf` that does not speak of the place of the sequence. -/
abbrev Sizes (s : State) : Prop :=
  (s.rom.length = s.par.nMax ∧ s.rdg.length = s.par.nMax ∧ s.dm.sp.length = 9) ∧
  (s.cmd.length ≤ s.par.fifoDepth ∧ s.res.length ≤ s.par.fifoDepth) ∧
  (s.romCount.toNat ≤ s.par.nMax ∧ s.rdgCount.toNat ≤ s.par.nMax) ∧
  s.rs.i.toNat ≤ 64 ∧ s.dm.k.toNat ≤ s.par.nMax ∧ s.dm.j.toNat ≤ 9

/-- The part of `State.wf` that holds at the place q of the sequence. -/
abbrev PlaceRanges (q : Seq) (s : State) : Prop :=
  match q with
  | .push p | .pop p =>
    (p.ofSearch = true → s.romCount.toNat < s.par.nMax) ∧ (p.inBits = true → s.rs.i.toNat < 64) ∧
      (p.ofDevice = true → s.dm.k.toNat < s.romCount.toNat) ∧ (p = .addrByte ∨ p = .spByte → s.dm.j.toNat ≤ 8)
  | .dev => s.dm.k.toNat ≤ s.romCount.toNat
  | .hostIdle | .discoverStart | .searchStart | .searchExit | .sampleStart | .readAll | .sampleDone | .pollGap => True

/-- `State.wf` in its three parts. -/
theorem wf_iff {s : State} : s.wf ↔ s.par.wf ∧ Sizes s ∧ PlaceRanges s.seq s := by
  constructor
  · rintro ⟨hpar, hsz, hch, hcnt, hpass, ⟨hi, hbits⟩, ⟨hk, hdev, hdevice⟩, hj, hj8⟩
    refine ⟨hpar, ⟨hsz, hch, hcnt, hi, hk, hj⟩, ?_⟩
    cases hq : s.seq <;> rw [hq] at hpass hbits hdev hdevice hj8
    case dev => exact hdev rfl
    case push p => exact ⟨hpass, hbits, hdevice, fun h => hj8 (h.elim (.inl <| · ▸ rfl) (.inr <| .inr <| .inl <| · ▸ rfl))⟩
    case pop p =>
      exact ⟨hpass, hbits, hdevice, fun h => hj8 (h.elim (.inr <| .inl <| · ▸ rfl) (.inr <| .inr <| .inr <| · ▸ rfl))⟩
    all_goals trivial
  · rintro ⟨hpar, ⟨hsz, hch, hcnt, hi, hk, hj⟩, hplace⟩
    unfold State.wf
    cases hq : s.seq <;> rw [hq] at hplace
    case push p =>
      obtain ⟨hpass, hbits, hdevice, hj8⟩ := hplace
      exact ⟨hpar, hsz, hch, hcnt, hpass, ⟨hi, hbits⟩, ⟨hk, nofun, hdevice⟩, hj, fun h => hj8 (by simpa using h)⟩
    case pop p =>
      obtain ⟨hpass, hbits, hdevice, hj8⟩ := hplace
      exact ⟨hpar, hsz, hch, hcnt, hpass, ⟨hi, hbits⟩, ⟨hk, nofun, hdevice⟩, hj, fun h => hj8 (by simpa using h)⟩
    case dev => exact ⟨hpar, hsz, hch, hcnt, nofun, ⟨hi, nofun⟩, ⟨hk, fun _ => hplace, nofun⟩, hj, by simp⟩
    all_goals exact ⟨hpar, hsz, hch, hcnt, nofun, ⟨hi, nofun⟩, ⟨hk, nofun, nofun⟩, hj, by simp⟩

/-- Counting one up stays in the 7 bits while the value is below 64. -/
theorem toNat_succ7 {v : BitVec 7} (h : v.toNat < 64) : (v + 1).toNat = v.toNat + 1 := by
  rw [BitVec.toNat_add]
  exact Nat.mod_eq_of_lt (by simpa using by omega)

/-- Counting one up stays in the 4 bits while the value is below 9. -/
theorem toNat_succ4 {v : BitVec 4} (h : v.toNat ≤ 8) : (v + 1).toNat = v.toNat + 1 := by
  rw [BitVec.toNat_add]
  exact Nat.mod_eq_of_lt (by simpa using by omega)

/-- DEV keeps the ranges: a device is read only while `DM.k` is below `ROM_COUNT`. -/
theorem ranges_atDev {s : State} (hz : Sizes s) (hk : s.dm.k.toNat ≤ s.romCount.toNat) :
    Sizes (atDev s) ∧ PlaceRanges (atDev s).seq (atDev s) := by
  obtain ⟨hsz, hch, ⟨hrc, hgc⟩, hrest⟩ := hz
  by_cases h : s.dm.k = s.romCount
  · simp only [atDev, if_pos h]
    exact ⟨⟨hsz, hch, ⟨hrc, hrc⟩, hrest⟩, trivial⟩
  · have hlt : s.dm.k.toNat < s.romCount.toNat := by
      have := mt BitVec.eq_of_toNat_eq h
      omega
    simp only [atDev, if_neg h]
    exact ⟨⟨hsz, hch, ⟨hrc, hgc⟩, hrest⟩, nofun, nofun, fun _ => hlt, by simp⟩

/-- READ_ALL starts with device 0. -/
theorem ranges_atReadAll {s : State} (hz : Sizes s) : Sizes (atReadAll s) ∧ PlaceRanges (atReadAll s).seq (atReadAll s) := by
  obtain ⟨hsz, hch, hcnt, hi, -, hj⟩ := hz
  exact ranges_atDev (s := { s with dm := { s.dm with k := 0 } }) ⟨hsz, hch, hcnt, hi, Nat.zero_le _, hj⟩ (Nat.zero_le _)

/-- The end of a pass needs one free entry and leaves room for the next pass, or ends (R241, R244). -/
theorem ranges_recordPass {s : State} (hn : s.par.nMax ≤ 64) (hz : Sizes s) (hroom : s.romCount.toNat < s.par.nMax) :
    Sizes (recordPass s) ∧ PlaceRanges (recordPass s).seq (recordPass s) := by
  obtain ⟨⟨hrom, hrdg⟩, hch, ⟨hrc, hgc⟩, hrest⟩ := hz
  have hsucc := toNat_succ7 (v := s.romCount) (by omega)
  have hz' : Sizes (withCode s) := ⟨⟨by simpa [withCode] using hrom, hrdg⟩, hch, ⟨by
    show (s.romCount + 1).toNat ≤ s.par.nMax
    omega, hgc⟩, hrest⟩
  obtain ⟨-, h⟩ | ⟨-, hfull, h⟩ | ⟨-, -, h⟩ := recordPass_cases s <;> rw [h]
  · exact ⟨hz', trivial⟩
  · refine ⟨hz', fun _ => ?_, nofun, nofun, by simp⟩
    show (s.romCount + 1).toNat < s.par.nMax
    omega
  · exact ⟨hz', trivial⟩

/-- After the ninth byte the next device is at most the last (R266, R275). -/
theorem ranges_recordReading {s : State} (hn : s.par.nMax ≤ 64) (hz : Sizes s) (hk : s.dm.k.toNat < s.romCount.toNat) :
    Sizes (recordReading s) ∧ PlaceRanges (recordReading s).seq (recordReading s) := by
  obtain ⟨⟨hrom, hrdg, hsp⟩, hch, ⟨hrc, hgc⟩, hi, -, hj⟩ := hz
  have hsucc := toNat_succ7 (v := s.dm.k) (by omega)
  exact ranges_atDev (s := { s with
      rdg := s.rdg.set s.dm.k.toNat (readingOf s.dm.sp)
      dm := { s.dm with crc := crc8 s.dm.sp, k := s.dm.k + 1 } })
    ⟨⟨hrom, by simpa using hrdg, hsp⟩, hch, ⟨hrc, hgc⟩, hi, by
      show (s.dm.k + 1).toNat ≤ s.par.nMax
      omega, hj⟩ (by
      show (s.dm.k + 1).toNat ≤ s.romCount.toNat
      omega)

/-- What follows a pop keeps the ranges, at every place (R230, R261). -/
theorem ranges_afterPop {ex : Bool} {p : Place} {r : Byte} {s : State} (hn : s.par.nMax ≤ 64) (hz : Sizes s)
    (hplace : PlaceRanges (.pop p) s) :
    Sizes (afterPop ex p r s) ∧ PlaceRanges (afterPop ex p r s).seq (afterPop ex p r s) := by
  obtain ⟨hpass, hbits, hdevice, hj8⟩ := hplace
  obtain ⟨⟨hrom, hrdg, hsp⟩, hch, hcnt, hi, hk, hj⟩ := id hz
  cases p
  case passReset =>
    simp only [afterPop]
    cases r.getLsbD 0
    · exact ⟨hz, hpass, nofun, nofun, by simp⟩
    · exact ⟨hz, trivial⟩
  case searchCmd =>
    exact ⟨⟨⟨hrom, hrdg, hsp⟩, hch, hcnt, Nat.zero_le _, hk, hj⟩, hpass,
      fun _ => (show (0#7).toNat < 64 by decide), nofun, by simp⟩
  case readB1 => exact ⟨hz, hpass, hbits, nofun, by simp⟩
  case readB2 =>
    have hci : ∀ rs : Search, (chooseDir rs).i = rs.i := by
      intro rs
      unfold chooseDir
      repeat' split
      all_goals rfl
    simp only [afterPop]
    split
    · exact ⟨hz, trivial⟩
    · refine ⟨⟨⟨hrom, hrdg, hsp⟩, hch, hcnt, ?_, hk, hj⟩, hpass, ?_, nofun, by simp⟩
      · simpa [hci] using hi
      · intro _
        simpa [hci] using hbits rfl
  case writeDir =>
    have hlt : s.rs.i.toNat < 64 := hbits rfl
    have hsucc := toNat_succ7 hlt
    have hz' : Sizes { s with rs := takeDir s.rs } := ⟨⟨hrom, hrdg, hsp⟩, hch, hcnt, by
      show (s.rs.i + 1).toNat ≤ 64
      omega, hk, hj⟩
    simp only [afterPop]
    split
    · exact ⟨hz', hpass, fun _ => ‹_›, nofun, by simp⟩
    · exact ranges_recordPass hn hz' (hpass rfl)
  case sampleReset =>
    simp only [afterPop]
    cases r.getLsbD 0
    · exact ⟨hz, nofun, nofun, nofun, by simp⟩
    · exact ⟨hz, trivial⟩
  case addrAll => exact ⟨hz, nofun, nofun, nofun, by simp⟩
  case startConv => exact ⟨hz, nofun, nofun, nofun, by simp⟩
  case pollRead =>
    simp only [afterPop]
    have hall := ranges_atReadAll hz
    repeat' split
    · exact hall
    · exact hall
    · exact ⟨hz, trivial⟩
  case devReset => exact ⟨hz, nofun, nofun, hdevice, by simp⟩
  case addrOne =>
    exact ⟨⟨⟨hrom, hrdg, hsp⟩, hch, hcnt, hi, hk, Nat.zero_le _⟩, nofun, nofun, hdevice, fun _ => Nat.zero_le _⟩
  case addrByte =>
    have hsucc := toNat_succ4 (hj8 (.inl rfl))
    have hj' : (s.dm.j + 1).toNat ≤ 9 := by
      have := hj8 (.inl rfl)
      omega
    simp only [afterPop]
    split
    · exact ⟨⟨⟨hrom, hrdg, hsp⟩, hch, hcnt, hi, hk, hj'⟩, nofun, nofun, hdevice, fun _ => Nat.le_of_lt ‹_›⟩
    · exact ⟨⟨⟨hrom, hrdg, hsp⟩, hch, hcnt, hi, hk, hj'⟩, nofun, nofun, hdevice, by simp⟩
  case readCmd =>
    exact ⟨⟨⟨hrom, hrdg, hsp⟩, hch, hcnt, hi, hk, Nat.zero_le _⟩, nofun, nofun, hdevice, fun _ => Nat.zero_le _⟩
  case spByte =>
    have hsucc := toNat_succ4 (hj8 (.inr rfl))
    have hz' : Sizes (takeSpByte r s) := ⟨⟨hrom, hrdg, by simpa [takeSpByte] using hsp⟩, hch, hcnt, hi, hk, by
      have := hj8 (.inr rfl)
      show (s.dm.j + 1).toNat ≤ 9
      omega⟩
    simp only [afterPop]
    split
    · exact ⟨hz', nofun, nofun, hdevice, fun _ => by
        show (s.dm.j + 1).toNat ≤ 8
        omega⟩
    · exact ranges_recordReading hn hz' (hdevice rfl)

/-- CONTROLLER's step keeps the ranges. -/
theorem wf_ctlStep {ex gd : Bool} {s t : State} {w : Option Framing} (hs : s.wf) (h : ctlStep ex gd s = some (w, t)) :
    t.wf := by
  have hpar := (ctlStep_outside h).1.par
  obtain ⟨hwf, hz, hplace⟩ := wf_iff.mp hs
  obtain ⟨-, -, ⟨hn1, hn64⟩, -⟩ := id hwf
  obtain ⟨hsz, ⟨hcmd, hres⟩, ⟨hrc, hgc⟩, hrest⟩ := id hz
  rw [wf_iff, hpar]
  refine ⟨hwf, ?_⟩
  cases ctlStep_cases h with
  | discoverStart hq =>
    exact ⟨⟨hsz, ⟨hcmd, hres⟩, ⟨Nat.zero_le _, Nat.zero_le _⟩, hrest⟩, fun _ => hn1, nofun, nofun, by simp⟩
  | searchStart hq => exact ⟨⟨hsz, ⟨hcmd, hres⟩, ⟨Nat.zero_le _, hgc⟩, hrest⟩, fun _ => hn1, nofun, nofun, by simp⟩
  | searchExit hq => exact ⟨hz, trivial⟩
  | sampleStart hq => exact ⟨⟨hsz, ⟨hcmd, hres⟩, ⟨hrc, Nat.zero_le _⟩, hrest⟩, nofun, nofun, nofun, by simp⟩
  | readAll hq => exact ranges_atReadAll hz
  | dev hq => exact ranges_atDev hz (by rw [hq] at hplace; exact hplace)
  | sampleDone hq => exact ⟨⟨hsz, ⟨hcmd, hres⟩, ⟨hrc, hrc⟩, hrest⟩, trivial⟩
  | push p hq hroom =>
    rw [hq] at hplace
    refine ⟨⟨hsz, ⟨?_, hres⟩, ⟨hrc, hgc⟩, hrest⟩, hplace⟩
    show (s.cmd ++ [placeElem p s]).length ≤ s.par.fifoDepth
    rw [List.length_append]
    exact not_le.mp (mt (cmdFull_iff s).mpr (Bool.eq_false_iff.mp hroom))
  | pop p r rest hq hr =>
    rw [hq] at hplace
    have hres' : rest.length ≤ s.par.fifoDepth := by
      rw [hr, List.length_cons] at hres
      omega
    exact ranges_afterPop (s := { s with res := rest }) hn64 ⟨hsz, ⟨hcmd, hres'⟩, ⟨hrc, hgc⟩, hrest⟩ hplace
  | pollGap hq hdone => exact ⟨hz, nofun, nofun, nofun, by simp⟩

theorem wf_engineReinit {s : State} (w : Framing) (hs : s.wf) : (engineReinit w s).wf := by
  obtain ⟨hpar, hsz, -, hrest⟩ := hs
  exact ⟨hpar, hsz, ⟨Nat.zero_le _, Nat.zero_le _⟩, hrest⟩

theorem wf_coreReset {s : State} (hs : s.wf) : (coreReset s).wf :=
  wf_iff.mpr ⟨hs.1, ⟨⟨List.length_replicate, List.length_replicate, rfl⟩, ⟨Nat.zero_le _, Nat.zero_le _⟩,
    ⟨Nat.zero_le _, Nat.zero_le _⟩, Nat.zero_le _, Nat.zero_le _, Nat.zero_le _⟩, trivial⟩

theorem wf_onBus {s t : State} (hs : s.wf) (h : OnBus s t) : t.wf := by
  obtain ⟨n, u, p, v, j, c, ⟨g, b, d, o, cmd, res, rfl, -, -, hc, hr⟩, hj, rfl⟩ := h
  obtain ⟨hpar, hsz, ⟨hcmd, hres⟩, hcnt, hpass, hi, hk, hj9, hj8⟩ := hs
  refine ⟨hpar, hsz, ⟨hc hcmd, hr hres⟩, hcnt, hpass, hi, hk, ?_⟩
  obtain rfl | rfl := hj
  · exact ⟨hj9, hj8⟩
  · exact ⟨by show (8#4).toNat ≤ 9; decide, fun _ => by show (8#4).toNat ≤ 8; decide⟩

/-- Every operation keeps the ranges. -/
theorem wf_exec {i : Instr} {s t : State} (hs : s.wf) (h : exec i s = .next t) : t.wf := by
  obtain ⟨hpar, hz, -⟩ := wf_iff.mp hs
  rcases exec_effects h with rfl | ⟨-, rfl⟩ | ⟨-, -, rfl | rfl⟩ | ⟨w, -, rfl⟩ | hbus
  · exact hs
  · exact wf_coreReset hs
  · exact wf_iff.mpr ⟨hpar, hz, trivial⟩
  · exact wf_iff.mpr ⟨hpar, hz, trivial⟩
  · exact wf_engineReinit w hs
  · exact wf_onBus hs hbus

/-- ENGINE's tick keeps the ranges: it pushes only into a RES that has room. -/
theorem wf_engineTick {a b : Bool} {s : State} (hs : s.wf) (hb : b = true → resFull s = false) :
    (engineTick a b s).wf := by
  have hroom := engineTick_res_le a b s hb
  obtain ⟨g, b', d, o, c, q, ht, hc, -⟩ := engineTick_change a b s
  obtain ⟨hpar, hsz, ⟨hcmd, hres⟩, hrest⟩ := hs
  rw [ht] at hroom ⊢
  refine ⟨hpar, hsz, ⟨?_, ?_⟩, hrest⟩
  · obtain rfl | ⟨-, e, he⟩ := hc
    · exact hcmd
    · rw [he, List.length_cons] at hcmd
      show c.length ≤ s.par.fifoDepth
      omega
  · exact hroom.trans (max_le hres le_rfl)

/-- An element taken from the head of CMD leaves the ranges. -/
theorem wf_cmd_tail {s : State} {e : Elem} {rest : List Elem} (hs : s.wf) (hc : s.cmd = e :: rest) :
    State.wf { s with cmd := rest } := by
  obtain ⟨hpar, hsz, ⟨hcmd, hres⟩, hrest⟩ := hs
  rw [hc, List.length_cons] at hcmd
  exact ⟨hpar, hsz, ⟨by show rest.length ≤ s.par.fifoDepth; omega, hres⟩, hrest⟩

/-- Settles O46: each part of a step keeps the ranges; CONTROLLER's part place by place. -/
theorem everyStepKeepsRangesAndSizes : Obligations.EveryStepKeepsRangesAndSizes := by
  intro s t hs h
  exact step_keeps State.wf (fun _ _ _ hu => hu) (fun _ _ hu => hu) (fun _ hu => hu) (fun _ _ _ hu => hu)
    (fun _ _ _ hu => hu) (fun _ hu => hu) (fun _ _ _ => wf_exec)
    (fun _ _ _ _ hu hc _ hv => wf_exec (wf_cmd_tail hu hc) hv) (fun _ _ _ _ => wf_ctlStep)
    (fun _ _ _ _ w hu hc => wf_engineReinit w (wf_ctlStep hu hc)) (fun _ _ _ => wf_engineTick) hs h

end Sys2Proof.Machine
end

section
/-! PROOFS. The line is driven exactly in the assertion phases, and what `ow_in` shows of it (R37, R38, R103, R178). -/

namespace Sys2Proof.Machine

/-! ### ENGINE's registers -/

/-- `State.engineOk` but for the parameters, which no step changes. -/
abbrev EngineRegs (w : Framing) (g : Engine) : Prop :=
  g.drive = g.phase.asserts ∧ g.nbit.toNat ≤ 8 ∧ (g.phase.inSlot = true → g.nbit.toNat < w.width) ∧
  (g.phase = .elPush → g.nbit.toNat = w.width) ∧ (g.phase.timed = true → 1 ≤ g.cnt)

theorem engineOk_iff {s : State} : s.engineOk ↔ s.par.wf ∧ EngineRegs s.framing s.eng := Iff.rfl

/-- A released line in IDLE or in the recovery of a reset sequence. -/
theorem engineRegs_rest {w : Framing} {g : Engine} (hd : g.drive = false) (hp : g.phase = .idle ∨ g.phase = .rstRec)
    (hn : g.nbit.toNat ≤ 8) (hc : 1 ≤ g.cnt) : EngineRegs w g := by
  obtain hp | hp := hp <;> rw [EngineRegs, hp] <;> exact ⟨hd, hn, nofun, nofun, fun _ => hc⟩

/-- The start of a slot that is still to be done (R171). -/
theorem engineRegs_startSlot {s : State} (hp : 1 ≤ s.par.tLow) (hn : s.eng.nbit.toNat ≤ 8)
    (hlt : s.eng.nbit.toNat < s.framing.width) : EngineRegs s.framing (startSlot s).eng :=
  ⟨rfl, hn, fun _ => hlt, nofun, fun _ => hp⟩

/-- A timed phase counts down while ticks are left, and its exit takes over with the last (R165). -/
theorem engineRegs_timed {exit : State → State} {s : State} (hs : EngineRegs s.framing s.eng)
    (hexit : EngineRegs s.framing (exit s).eng) : EngineRegs s.framing (timed exit s).eng := by
  obtain ⟨hd, hn, hslot, hpush, -⟩ := hs
  unfold timed
  split
  · next h => exact ⟨hd, hn, hslot, hpush, fun _ => Nat.le_sub_one_of_lt h⟩
  · exact hexit

theorem framing_width_le (w : Framing) : w.width ≤ 8 := by cases w <;> decide

theorem framing_width_pos (w : Framing) : 0 < w.width := by cases w <;> decide

/-- Each phase's tick leaves the registers in order (R165 to R177). -/
theorem engineRegs_engineTick {a b : Bool} {s : State} (hpar : s.par.wf) (hs : EngineRegs s.framing s.eng) :
    EngineRegs s.framing (engineTick a b s).eng := by
  obtain ⟨⟨hRstl, hPds, hRstrec, hLow, hSmp, hRec, hSlot⟩, -⟩ := hpar
  obtain ⟨hd, hn, hslot, hpush, htimed⟩ := id hs
  have hw := framing_width_le s.framing
  unfold engineTick
  split
  · split
    · split
      · exact hs
      · unfold startElem
        split
        · exact ⟨rfl, hn, nofun, nofun, fun _ => hRstl⟩
        · exact engineRegs_startSlot (s := setEngine _ _) hLow (Nat.zero_le _) (framing_width_pos s.framing)
    · exact hs
  · exact engineRegs_timed hs ⟨rfl, hn, nofun, nofun, fun _ => hPds⟩
  · next hp => exact engineRegs_timed hs ⟨by rw [hp] at hd; exact hd, hn, nofun, nofun, nofun⟩
  · next hp =>
    split
    · exact engineRegs_rest (by rw [hp] at hd; exact hd) (.inr rfl) hn hRstrec
    · exact hs
  · next hp => exact engineRegs_timed hs ⟨by rw [hp] at hd; exact hd, hn, nofun, nofun, nofun⟩
  · next hp =>
    rw [hp] at hd hslot
    refine engineRegs_timed hs ?_
    unfold exitSlLow
    split
    · exact ⟨rfl, hn, hslot, nofun, fun _ => hSmp⟩
    · exact ⟨hd, hn, hslot, nofun, fun _ => by show 1 ≤ s.par.tSlot - s.par.tLow; omega⟩
  · next hp =>
    rw [hp] at hd hslot
    exact engineRegs_timed hs ⟨hd, hn, hslot, nofun, fun _ => by
      show 1 ≤ s.par.tSlot - s.par.tLow - s.par.tSmp
      omega⟩
  · next hp =>
    rw [hp] at hd hslot
    exact engineRegs_timed hs ⟨hd, hn, hslot, nofun, fun _ => hRec⟩
  · next hp =>
    rw [hp] at hslot
    exact engineRegs_timed hs ⟨rfl, hn, hslot, nofun, fun _ => hRec⟩
  · next hp =>
    rw [hp] at hd hslot
    have hlt := hslot rfl
    have hsucc : (s.eng.nbit + 1).toNat = s.eng.nbit.toNat + 1 := toNat_succ4 (by omega)
    refine engineRegs_timed hs ?_
    unfold exitSlRec
    dsimp only
    split
    · next hlast => exact ⟨hd, by show (s.eng.nbit + 1).toNat ≤ 8; omega, nofun, fun _ => hlast, nofun⟩
    · next hmore =>
      exact engineRegs_startSlot (s := setEngine _ s) hLow (by show (s.eng.nbit + 1).toNat ≤ 8; omega) (by
        show (s.eng.nbit + 1).toNat < s.framing.width
        omega)
  · next hp =>
    split
    · exact ⟨by rw [hp] at hd; exact hd, hn, nofun, nofun, nofun⟩
    · exact hs

theorem engineTick_framing (a b : Bool) (s : State) : (engineTick a b s).framing = s.framing := by
  obtain ⟨g, b', d, o, c, q, ht, -⟩ := engineTick_change a b s
  rw [ht, setChannels_framing]

theorem engineTick_par (a b : Bool) (s : State) : (engineTick a b s).par = s.par := by
  obtain ⟨g, b', d, o, c, q, ht, -⟩ := engineTick_change a b s
  rw [ht, setChannels_par]

theorem engineOk_engineTick {a b : Bool} {s : State} (hs : s.engineOk) : (engineTick a b s).engineOk := by
  obtain ⟨hpar, hregs⟩ := engineOk_iff.mp hs
  rw [engineOk_iff, engineTick_framing, engineTick_par]
  exact ⟨hpar, engineRegs_engineTick hpar hregs⟩

theorem engineRegs_reset (w : Framing) : EngineRegs w .reset := ⟨rfl, Nat.zero_le _, nofun, nofun, nofun⟩

/-- What an operation leaves in ENGINE's registers is in order (R165 to R177). -/
theorem engineRegs_left {s : State} {g : Engine} (hpar : s.par.wf) (hs : EngineRegs s.framing s.eng)
    (hg : EngineLeft s g) : EngineRegs s.framing g := by
  obtain ⟨⟨-, -, hRstrec, -⟩, -⟩ := hpar
  obtain rfl | ⟨-, hd, hp, hc, hn⟩ := hg
  · exact hs
  · refine engineRegs_rest hd hp ?_ (by omega)
    obtain hn | hn := hn
    · rw [hn]; exact hs.2.1
    · exact hn

/-- Every operation keeps ENGINE's registers in order. -/
theorem engineOk_exec {i : Instr} {s t : State} (hs : s.engineOk) (h : exec i s = .next t) : t.engineOk := by
  obtain ⟨hpar, hregs⟩ := engineOk_iff.mp hs
  rcases exec_effects h with rfl | ⟨-, rfl⟩ | ⟨-, -, rfl | rfl⟩ | ⟨w, -, rfl⟩ | ⟨n, u, p, v, j, c, hu, -, rfl⟩
  · exact hs
  · exact ⟨hpar, engineRegs_reset _⟩
  · exact hs
  · exact hs
  · exact ⟨hpar, engineRegs_reset w⟩
  · obtain ⟨g, b, d, o, cmd, res, rfl, hg, -⟩ := hu
    exact ⟨hpar, engineRegs_left (s := s) hpar hregs hg⟩

/-- CONTROLLER's step does not touch ENGINE's registers, FRAMING or the parameters. -/
theorem engineOk_ctlStep {ex gd : Bool} {s t : State} {w : Option Framing} (hs : s.engineOk)
    (h : ctlStep ex gd s = some (w, t)) : t.engineOk := by
  have ho := (ctlStep_outside h).1
  rw [engineOk_iff, ho.par, ho.framing, ho.eng]
  exact hs

/-! ### What `ow_in` shows -/

/-- No step changes the level of the run (notes/assumptions/12.md). -/
theorem step_level {s t : State} (h : step s = .next t) : t.level = s.level := by
  refine step_keeps (fun u => u.level = s.level) (fun _ _ _ hu => hu) (fun _ _ hu => hu) (fun _ hu => hu)
    (fun _ _ _ hu => hu) (fun _ _ _ hu => hu) (fun _ hu => hu) (fun _ _ _ hu he => (exec_level he).trans hu)
    (fun e rest u v hu _ _ hv => ?_) (fun _ _ _ _ hu hc => (ctlStep_outside hc).1.level.trans hu)
    (fun _ _ _ _ _ hu hc => (ctlStep_outside hc).1.level.trans hu) (fun a b u hu _ => ?_) rfl h
  · exact (exec_level hv).trans hu
  · obtain ⟨g, b', d, o, c, q, ht, -⟩ := engineTick_change a b u
    rw [ht]
    exact hu

/-- A step ends by showing the line. -/
theorem step_showLine {s t : State} (h : step s = .next t) : ∃ u, t = showLine u := by
  obtain ⟨u, -, hu⟩ := onNext_next h
  cases hu
  exact ⟨u, rfl⟩

/-- The level of the line on the reference bus while the core does not drive it (R103, R106). -/
theorem lineLevel_reference {s : State} {ds : List Device} (hb : s.bus = .reference ds) (hd : s.eng.drive = false) :
    lineLevel s = if s.eng.phase = .rstWait then ds.isEmpty else ds.all (fun d => d.out) := by
  rw [lineLevel, hb, hd]
  rfl

/-- Settles O47: ENGINE's phases keep its registers in order, and at Level C every step ends by showing the line. -/
theorem everyStepKeepsTheLineReleasedOutsideAssertion : Obligations.EveryStepKeepsTheLineReleasedOutsideAssertion := by
  refine ⟨fun s t hs h => ?_, fun s t hl h => ?_⟩
  · exact step_keeps State.engineOk (fun _ _ _ hu => hu) (fun _ _ hu => hu) (fun _ hu => hu) (fun _ _ _ hu => hu)
      (fun _ _ _ hu => hu) (fun _ hu => hu) (fun _ _ _ => engineOk_exec)
      (fun _ rest u _ hu _ _ hv => engineOk_exec (s := { u with cmd := rest }) hu hv) (fun _ _ _ _ => engineOk_ctlStep)
      (fun _ _ _ _ w hu hc => ⟨(engineOk_ctlStep hu hc).1, engineRegs_reset w⟩)
      (fun _ _ _ hu _ => engineOk_engineTick hu) hs h
  · have ht := (step_level h).trans hl
    obtain ⟨u, rfl⟩ := step_showLine h
    rw [showLine_level] at ht
    simp only [showLine_eng, showLine_bus, showLine_owIn ht]
    exact ⟨fun hd => by simp [lineLevel, hd], fun ds hb hd => lineLevel_reference hb hd⟩

end Sys2Proof.Machine
end

section
/-! PROOFS. The fault flags and the Readings at every place of the sequences (R276, R321, R329), and the reset state. -/

namespace Sys2Proof.Machine

/-! ### The possible flag sets -/

/-- `State.flagsOk` by the place of the sequence. -/
abbrev PlaceFlags (q : Seq) (f : Flags) : Bool :=
  match q with
  | .hostIdle => f.afterDiscover || f.afterSampleAll
  | .searchExit => f.afterDiscover
  | .discoverStart | .searchStart | .sampleStart | .pollGap => f == .clear
  | .push p | .pop p => if p.ofDevice then f.afterSampleAll && !f.busFault else f == .clear
  | .readAll | .dev | .sampleDone => f.afterSampleAll && !f.busFault

theorem flagsOk_eq (s : State) : s.flagsOk = PlaceFlags s.seq s.flags := rfl

/-- The flags a SAMPLE_ALL can have while it reads the devices: POLL_TIMEOUT and CRC_MISMATCH (R329). -/
abbrev DeviceFlags (f : Flags) : Prop := (f.afterSampleAll && !f.busFault) = true

theorem deviceFlags_set_crcMismatch {f : Flags} (h : DeviceFlags f) : DeviceFlags (f.set .crcMismatch) := by
  obtain ⟨bf, sf, cm, pt, tf⟩ := f
  cases bf <;> simp_all [DeviceFlags, Flags.afterSampleAll, Flags.set]

/-- DEV with such flags: the next device or the end. -/
theorem placeFlags_atDev {s : State} {f : Flags} (h : DeviceFlags f) : PlaceFlags (atDev s).seq f = true := by
  rw [atDev_seq]
  split
  · exact Bool.or_eq_true_iff.mpr (.inr (Bool.and_eq_true_iff.mp h).1)
  · exact h

/-- What follows a pop keeps the flags possible, at every place. -/
theorem placeFlags_afterPop {ex : Bool} {p : Place} {r : Byte} {s : State} (h : PlaceFlags (.pop p) s.flags = true) :
    PlaceFlags (afterPop ex p r s).seq (afterPop ex p r s).flags = true := by
  have hclear : p.ofDevice = false → s.flags = .clear := fun hp => by simpa [PlaceFlags, hp] using h
  cases p <;> simp only [afterPop]
  case passReset | sampleReset =>
    rw [raiseIf_flags, raiseIf_seq, setPresence_flags, hclear rfl]
    cases r.getLsbD 0 <;> rfl
  case searchCmd | readB1 | addrAll | startConv => exact h
  case readB2 =>
    split
    · rw [raiseFault_flags, hclear rfl]
      rfl
    · exact h
  case writeDir =>
    split
    · exact h
    · obtain ⟨-, h⟩ | ⟨-, -, h⟩ | ⟨-, -, h⟩ := recordPass_cases { s with rs := takeDir s.rs } <;> rw [h] <;>
        simp only [withCode, hclear rfl] <;> rfl
  case pollRead =>
    repeat' split
    · exact placeFlags_atDev (show DeviceFlags s.flags by rw [hclear rfl]; rfl)
    · exact placeFlags_atDev (show DeviceFlags (s.flags.set .pollTimeout) by rw [hclear rfl]; rfl)
    · exact h
  case devReset | addrOne | readCmd => exact h
  case addrByte => split <;> exact h
  case spByte =>
    split
    · exact h
    · rw [recordReading, raiseIf_flags, raiseIf_seq]
      split
      · exact placeFlags_atDev (deviceFlags_set_crcMismatch h)
      · exact placeFlags_atDev h

theorem flagsOk_ctlStep {ex gd : Bool} {s t : State} {w : Option Framing} (hs : s.flagsOk = true)
    (h : ctlStep ex gd s = some (w, t)) : t.flagsOk = true := by
  rw [flagsOk_eq] at hs ⊢
  cases ctlStep_cases h with
  | discoverStart hq | searchStart hq | sampleStart hq | push p hq hroom | pollGap hq hdone => rw [hq] at hs; exact hs
  | searchExit hq => rw [hq] at hs; exact Bool.or_eq_true_iff.mpr (.inl hs)
  | readAll hq | dev hq => rw [hq] at hs; exact placeFlags_atDev hs
  | sampleDone hq =>
    rw [hq] at hs
    exact Bool.or_eq_true_iff.mpr (.inr (Bool.and_eq_true_iff.mp hs).1)
  | pop p r rest hq hr => rw [hq] at hs; exact placeFlags_afterPop (s := { s with res := rest }) hs

/-- An operation changes the flags only where it clears them. -/
theorem flagsOk_exec {i : Instr} {s t : State} (hs : s.flagsOk = true) (h : exec i s = .next t) : t.flagsOk = true := by
  rcases exec_effects h with rfl | ⟨-, rfl⟩ | ⟨-, -, rfl | rfl⟩ | ⟨w, -, rfl⟩ | ⟨n, u, p, v, j, c, hu, -, rfl⟩
  · exact hs
  · rfl
  · rfl
  · rfl
  · exact hs
  · obtain ⟨g, b, d, o, cmd, res, rfl, -⟩ := hu
    exact hs

theorem flagsOk_engineTick {a b : Bool} {s : State} (hs : s.flagsOk = true) : (engineTick a b s).flagsOk = true := by
  obtain ⟨g, b', d, o, c, q, ht, -⟩ := engineTick_change a b s
  rw [ht]
  exact hs

/-- Settles O49: only CONTROLLER raises a flag, at the places whose sets allow for it. -/
theorem everyStepKeepsThePossibleFlagSets : Obligations.EveryStepKeepsThePossibleFlagSets := by
  intro s t hs h
  exact step_keeps (fun u => u.flagsOk = true) (fun _ _ _ hu => hu) (fun _ _ hu => hu) (fun _ hu => hu)
    (fun _ _ _ hu => hu) (fun _ _ _ hu => hu) (fun _ hu => hu) (fun _ _ _ => flagsOk_exec)
    (fun _ rest u _ hu _ _ hv => flagsOk_exec (s := { u with cmd := rest }) hu hv) (fun _ _ _ _ => flagsOk_ctlStep)
    (fun _ _ _ v _ hu hc => (flagsOk_ctlStep hu hc : v.flagsOk = true)) (fun _ _ _ hu _ => flagsOk_engineTick hu) hs h

/-! ### The Readings and CRC_MISMATCH -/

/-- The Readings before n are results, and the flag says whether one of them failed (R275, R276 b, c). -/
abbrev ReadTo (rdg : List Reading) (n : Nat) (mismatch : Bool) : Prop :=
  readingsDone rdg n = true ∧ mismatch = someCrcFail rdg n

/-- `State.readingsOk` by the place of the sequence. -/
abbrev PlaceReadings (q : Seq) (s : State) : Prop :=
  match q with
  | .hostIdle => (s.rdgCount = 0 ∨ s.rdgCount = s.romCount) ∧ ReadTo s.rdg s.rdgCount.toNat s.flags.crcMismatch
  | .discoverStart | .sampleStart => s.flags.crcMismatch = false
  | .dev => s.rdgCount = 0 ∧ ReadTo s.rdg s.dm.k.toNat s.flags.crcMismatch
  | .sampleDone => s.rdgCount = 0 ∧ ReadTo s.rdg s.dm.k.toNat s.flags.crcMismatch ∧ s.dm.k = s.romCount
  | .push p | .pop p =>
    s.rdgCount = 0 ∧
      (if p.ofDevice then ReadTo s.rdg s.dm.k.toNat s.flags.crcMismatch else s.flags.crcMismatch = false)
  | .searchStart | .searchExit | .readAll | .pollGap => s.rdgCount = 0 ∧ s.flags.crcMismatch = false

theorem readingsOk_iff (s : State) : s.readingsOk ↔ PlaceReadings s.seq s := by
  unfold State.readingsOk
  cases hq : s.seq
  case dev => simp [PlaceReadings, ReadTo]
  case sampleDone => simp [PlaceReadings, ReadTo, and_assoc]
  all_goals exact Iff.rfl

theorem readTo_zero {rdg : List Reading} {b : Bool} (h : b = false) : ReadTo rdg 0 b := ⟨rfl, h⟩

/-- With no Reading counted and no mismatch the place HOST_IDLE is reached consistently. -/
theorem placeReadings_hostIdle {s : State} (h0 : s.rdgCount = 0) (hm : s.flags.crcMismatch = false) :
    PlaceReadings .hostIdle s := by
  refine ⟨.inl h0, ?_⟩
  rw [h0]
  exact readTo_zero hm

/-- DEV: the next device with the Readings so far, or all of them counted (R266, R275). -/
theorem placeReadings_atDev {s : State} (h0 : s.rdgCount = 0) (h : ReadTo s.rdg s.dm.k.toNat s.flags.crcMismatch) :
    PlaceReadings (atDev s).seq (atDev s) := by
  by_cases hk : s.dm.k = s.romCount
  · simp only [atDev, if_pos hk]
    exact ⟨.inr rfl, hk ▸ h⟩
  · simp only [atDev, if_neg hk]
    exact ⟨h0, h⟩

theorem placeReadings_atReadAll {s : State} (h0 : s.rdgCount = 0) (hm : s.flags.crcMismatch = false) :
    PlaceReadings (atReadAll s).seq (atReadAll s) :=
  placeReadings_atDev (s := { s with dm := { s.dm with k := 0 } }) h0 (readTo_zero hm)

theorem readingOf_kind (sp : List Byte) :
    (readingOf sp).kind = if crc8 sp = 0#8 then .temp else .crcFail := by
  unfold readingOf
  split <;> rfl

/-- A Reading recorded behind the others is a result, and a failure exactly if the CRC is not 0 (R271, R274). -/
theorem readTo_record {rdg : List Reading} {k : Nat} {b : Bool} (sp : List Byte) (hk : k < rdg.length)
    (h : ReadTo rdg k b) : ReadTo (rdg.set k (readingOf sp)) (k + 1) (if crc8 sp != 0#8 then true else b) := by
  have htake : (rdg.set k (readingOf sp)).take (k + 1) = rdg.take k ++ [readingOf sp] := by
    rw [List.take_succ_eq_append_getElem (by simpa using hk), List.take_set_of_le le_rfl, List.getElem_set_self]
  obtain ⟨hdone, rfl⟩ := h
  unfold ReadTo readingsDone someCrcFail at *
  rw [htake, List.all_append, List.any_append, hdone]
  simp only [List.all_cons, List.all_nil, List.any_cons, List.any_nil, readingOf_kind]
  by_cases hc : crc8 sp = 0#8
  · simp [hc]
  · simp [hc]

/-- The end of a device's read records its Reading and raises CRC_MISMATCH with it (R270 to R274). -/
theorem placeReadings_recordReading {s : State} (h0 : s.rdgCount = 0) (hk : s.dm.k.toNat < s.rdg.length)
    (hk64 : s.dm.k.toNat < 64) (h : ReadTo s.rdg s.dm.k.toNat s.flags.crcMismatch) :
    PlaceReadings (recordReading s).seq (recordReading s) := by
  have hdev := placeReadings_atDev (s := { s with
      rdg := s.rdg.set s.dm.k.toNat (readingOf s.dm.sp)
      dm := { s.dm with crc := crc8 s.dm.sp, k := s.dm.k + 1 }
      flags := { s.flags with crcMismatch := if crc8 s.dm.sp != 0#8 then true else s.flags.crcMismatch } }) h0 (by
    show ReadTo _ (s.dm.k + 1).toNat _
    rw [toNat_succ7 hk64]
    exact readTo_record s.dm.sp hk h)
  unfold recordReading raiseIf
  cases hc : crc8 s.dm.sp != 0#8 <;> rw [hc] at hdev <;> exact hdev

/-- What follows a pop keeps the Readings and the flag together, at every place. -/
theorem placeReadings_afterPop {ex : Bool} {p : Place} {r : Byte} {s : State} (hn : s.par.nMax ≤ 64) (hz : Sizes s)
    (hplace : PlaceRanges (.pop p) s) (h : PlaceReadings (.pop p) s) :
    PlaceReadings (afterPop ex p r s).seq (afterPop ex p r s) := by
  obtain ⟨h0, hm⟩ := id h
  cases p <;> simp only [afterPop]
  case passReset | sampleReset =>
    cases r.getLsbD 0
    · exact h
    · exact placeReadings_hostIdle h0 hm
  case searchCmd | readB1 | addrAll | startConv => exact h
  case readB2 =>
    split
    · exact placeReadings_hostIdle h0 hm
    · exact h
  case writeDir =>
    split
    · exact h
    · obtain ⟨-, h⟩ | ⟨-, -, h⟩ | ⟨-, -, h⟩ := recordPass_cases { s with rs := takeDir s.rs } <;> rw [h]
      · exact placeReadings_hostIdle h0 hm
      · exact ⟨h0, hm⟩
      · exact placeReadings_hostIdle h0 hm
  case pollRead =>
    have hall := placeReadings_atReadAll h0 hm
    repeat' split
    · exact hall
    · exact hall
    · exact h
  case devReset | addrOne | readCmd => exact h
  case addrByte => split <;> exact h
  case spByte =>
    split
    · exact h
    · have hk : s.dm.k.toNat < s.romCount.toNat := hplace.2.2.1 rfl
      obtain ⟨⟨-, hrdg, -⟩, -, ⟨hrc, -⟩, -⟩ := hz
      exact placeReadings_recordReading (s := takeSpByte r s) h0 (by show s.dm.k.toNat < s.rdg.length; omega)
        (by show s.dm.k.toNat < 64; omega) hm

theorem readingsOk_ctlStep {ex gd : Bool} {s t : State} {w : Option Framing} (hwf : s.wf) (hs : s.readingsOk)
    (h : ctlStep ex gd s = some (w, t)) : t.readingsOk := by
  obtain ⟨⟨-, -, ⟨-, hn64⟩, -⟩, hz, hplace⟩ := wf_iff.mp hwf
  rw [readingsOk_iff] at hs ⊢
  cases ctlStep_cases h with
  | discoverStart hq | sampleStart hq => rw [hq] at hs; exact ⟨rfl, hs⟩
  | searchStart hq => rw [hq] at hs; exact hs
  | searchExit hq => rw [hq] at hs; exact placeReadings_hostIdle hs.1 hs.2
  | readAll hq => rw [hq] at hs; exact placeReadings_atReadAll hs.1 hs.2
  | dev hq => rw [hq] at hs; exact placeReadings_atDev hs.1 hs.2
  | sampleDone hq => rw [hq] at hs; obtain ⟨-, hto, hk⟩ := hs; exact ⟨.inr rfl, hk ▸ hto⟩
  | push p hq hroom => rw [hq] at hs; exact hs
  | pop p r rest hq hr =>
    rw [hq] at hs hplace
    obtain ⟨hsz, ⟨hcmd, hres⟩, hrest⟩ := hz
    rw [hr, List.length_cons] at hres
    exact placeReadings_afterPop (s := { s with res := rest }) hn64
      ⟨hsz, ⟨hcmd, by show rest.length ≤ s.par.fifoDepth; omega⟩, hrest⟩ hplace hs
  | pollGap hq hdone => rw [hq] at hs; exact hs

theorem readingsOk_exec {i : Instr} {s t : State} (hs : s.readingsOk) (h : exec i s = .next t) : t.readingsOk := by
  rcases exec_effects h with rfl | ⟨-, rfl⟩ | ⟨-, -, rfl | rfl⟩ | ⟨w, -, rfl⟩ | ⟨n, u, p, v, j, c, hu, -, rfl⟩
  · exact hs
  · exact (readingsOk_iff _).mpr (placeReadings_hostIdle rfl rfl)
  · exact (readingsOk_iff _).mpr rfl
  · exact (readingsOk_iff _).mpr rfl
  · exact hs
  · obtain ⟨g, b, d, o, cmd, res, rfl, -⟩ := hu
    exact hs

theorem readingsOk_engineTick {a b : Bool} {s : State} (hs : s.readingsOk) : (engineTick a b s).readingsOk := by
  obtain ⟨g, b', d, o, c, q, ht, -⟩ := engineTick_change a b s
  rw [ht]
  exact hs

/-- Settles O48: only CONTROLLER writes Readings, one at a time and together with the flag. -/
theorem everyStepKeepsReadingsAndMismatchFlagTogether : Obligations.EveryStepKeepsReadingsAndMismatchFlagTogether := by
  intro s t hwf hs h
  refine (step_keeps (fun u => u.wf ∧ u.readingsOk) (fun _ _ _ hu => hu) (fun _ _ hu => hu) (fun _ hu => hu)
    (fun _ _ _ hu => hu) (fun _ _ _ hu => hu) (fun _ hu => hu)
    (fun _ _ _ hu he => ⟨wf_exec hu.1 he, readingsOk_exec hu.2 he⟩) (fun _ rest u _ hu hc _ hv => ?_)
    (fun _ _ _ _ hu hc => ⟨wf_ctlStep hu.1 hc, readingsOk_ctlStep hu.1 hu.2 hc⟩)
    (fun _ _ _ v w hu hc =>
      ⟨wf_engineReinit w (wf_ctlStep hu.1 hc), (readingsOk_ctlStep hu.1 hu.2 hc : v.readingsOk)⟩)
    (fun _ _ _ hu hb => ⟨wf_engineTick hu.1 hb, readingsOk_engineTick hu.2⟩) ⟨hwf, hs⟩ h).2
  exact ⟨wf_exec (wf_cmd_tail hu.1 hc) hv, readingsOk_exec (s := { u with cmd := rest }) hu.2 hv⟩

/-! ### The reset state -/

/-- Settles O51: the registers are those of `coreReset`, and the invariants hold of the values. -/
theorem resetStateHasTheStatedValuesAndInvariants : Obligations.ResetStateHasTheStatedValuesAndInvariants :=
  ⟨atReset_coreReset State.reset, by decide, by decide, ⟨.inl rfl, rfl, rfl⟩, rfl,
    ⟨by decide, rfl, rfl, fun _ => rfl, rfl, rfl, rfl⟩⟩

end Sys2Proof.Machine
end

section
/-! PROOFS. Everything a step of the core's agents can be, said once: CONTROLLER's and ENGINE's part, then the host's
(R11, R329). -/

namespace Sys2Proof.Machine

/-! ### The two parts of a step -/

theorem ctlStep_of {ex gd : Bool} {s t : State} {w : Option Framing} (h : CtlStep ex gd s w t) :
    ctlStep ex gd s = some (w, t) := by
  unfold ctlStep
  cases h with
  | push p hq hroom => rw [hq]; exact if_neg (by simp [hroom])
  | pop p r rest hq hr =>
    have hpop : popRes s = some ({ s with res := rest }, r) := by simp only [popRes, hr]
    refine Eq.trans ?_ (congrArg (Option.map fun x => (popFraming p x.2 x.1, afterPop ex p x.2 x.1)) hpop)
    rw [hq]
  | pollGap hq hdone => rw [hq]; exact if_pos hdone
  | discoverStart hq | searchStart hq | searchExit hq | sampleStart hq | readAll hq | dev hq | sampleDone hq =>
    rw [hq]

theorem CtlStep.level {ex gd : Bool} {s t : State} {w : Option Framing} (h : CtlStep ex gd s w t) : t.level = s.level :=
  (ctlStep_outside (ctlStep_of h)).1.level

/-- What CONTROLLER's step leaves, with its SET_FRAMING if it has one. -/
def reframed (w : Option Framing) (s : State) : State :=
  match w with
  | none => s
  | some v => engineReinit v s

/-- What CONTROLLER and ENGINE can do in a step of the agents: at Level T one of them moves, or the host access is the whole
step; at Level C both make their tick, unless REINIT is written. -/
inductive AgentMove (s : State) : State → Prop
  | stay (h : s.level = .transaction ∨ reinitWritten s = true) : AgentMove s s
  | element (e : Elem) (rest : List Elem) (hl : s.level = .transaction) (hc : s.cmd = e :: rest)
      (hfree : engineFree s = true) : AgentMove s (performElem e { s with cmd := rest })
  | control (w : Option Framing) (v : State) (hl : s.level = .transaction)
      (h : CtlStep (pollExhausted s) true s w v) : AgentMove s (reframed w v)
  | wait (n : Nat) (hl : s.level = .cycle) :
      AgentMove s (engineTick (!s.cmd.isEmpty) (!resFull s) { tickTimers s with ctlWait := n })
  | tick (v : State) (hl : s.level = .cycle) (h : CtlStep (s.dm.pollT == 0) (s.dm.gapT == 0) (tickTimers s) none v) :
      AgentMove s (engineTick (!s.cmd.isEmpty) (!resFull s) (loadLatency v))
  | reframe (w : Framing) (v : State) (hl : s.level = .cycle)
      (h : CtlStep (s.dm.pollT == 0) (s.dm.gapT == 0) (tickTimers s) (some w) v) :
      AgentMove s (engineReinit w (loadLatency v))

/-- At Level T a transfer leaves no ENGINE registers (R30). -/
theorem afterXfer_transaction (d : Byte) {x : State × Byte} (h : x.1.level = .transaction) : afterXfer d x = x.1 := by
  rw [afterXfer, leaveEngine_eq, h]
  rfl

/-- At Level T the operation of an element ENGINE is free for is `performElem`: ENGINE's registers, the one thing in which
a 1-bit transfer of a byte and of its bit 0 differ, stay (R30, R134). -/
theorem exec_decodeElem_transaction {e : Elem} {s : State} (hl : s.level = .transaction) (hfree : engineFree s = true) :
    exec (decodeElem s.framing e) s = .next (performElem e s) := by
  unfold decodeElem performElem
  cases elemRst e
  · cases hw : s.framing with
    | w8 => exact if_pos hfree
    | w1 =>
      have hbit : (zext8 (e.getLsbD 0)).getLsbD 0 = (elemData e).getLsbD 0 := by
        rw [zext8_bit_zero, elemData, BitVec.getLsbD_setWidth]
        simp
      refine (if_pos hfree).trans ?_
      simp only [Bool.false_eq_true, if_false, performXfer, hw, Framing.width, slots_one, hbit,
        afterXfer_transaction _ (x := ((busSlot _ s).1, _)) ((busSlot_level _ s).trans hl)]
  · exact if_pos hfree

theorem controllerT_cases {s u : State} (hl : s.level = .transaction) (h : controllerT s = .next u) : AgentMove s u := by
  unfold controllerT at h
  split at h
  · cases h; exact .stay (.inl hl)
  · next v hc => cases h; exact .control none _ hl (ctlStep_cases hc)
  · next w v hc =>
    obtain ⟨-, rfl⟩ := setFraming_next h
    exact .control (some w) v hl (ctlStep_cases hc)

theorem agentsTick_cases {s u : State} (hl : s.level = .cycle) (h : agentsTick s = .next u) : AgentMove s u := by
  unfold agentsTick at h
  rcases controllerC_cases s with hc | hc | ⟨w, v, hstep, hc⟩
  · rw [hc] at h
    cases h
    exact .wait s.ctlWait hl
  · rw [hc] at h
    cases h
    exact .wait _ hl
  · rw [hc] at h
    cases w with
    | none => cases h; exact .tick v hl (ctlStep_cases hstep)
    | some w =>
      obtain ⟨-, rfl⟩ := setFraming_next h
      exact .reframe w v hl (ctlStep_cases hstep)

/-- A REINIT write is a CTRL write with OP = 3. -/
theorem reinitWritten_iff {s : State} : reinitWritten s = true ↔ ctrlWritten s = true ∧ ctrlOp s = 3 := by
  have hdec : ∀ op : BitVec 2, decodeHost (op.setWidth 32) = .reinit ↔ op = 3 := by decide
  constructor
  · intro h
    have hw : ctrlWritten s = true := (Bool.and_eq_true_iff.mp h).1
    rw [reinitWritten_eq hw, decide_eq_true_iff, hdec] at h
    exact ⟨hw, h⟩
  · rintro ⟨hw, hop⟩
    rw [reinitWritten_eq hw, decide_eq_true_iff, hdec, hop]

/-- Everything a step of the agents can be. -/
theorem step_agents_cases {s t : State} (ha : s.agentsMove) (h : step s = .next t) :
    ∃ u v, AgentMove s u ∧ hostAccess s u = .next v ∧ t = showLine (nextCycle v) := by
  cases hl : s.level with
  | transaction =>
    rw [step_transaction ha hl] at h
    obtain ⟨v, hv, ht⟩ := onNext_next h
    refine (?_ : ∃ u, AgentMove s u ∧ hostAccess s u = .next v).elim fun u hu =>
      ⟨u, v, hu.1, hu.2, (Host.Outcome.next.inj ht).symm⟩
    unfold stepT at hv
    by_cases hsel : s.ports.host.hSel = true
    · rw [if_pos hsel] at hv
      exact ⟨s, .stay (.inl hl), hv⟩
    · rw [if_neg hsel] at hv
      have hquiet : ∀ u, hostAccess s u = .next u := fun u => hostAccess_unselected (Bool.eq_false_iff.mpr hsel)
      split at hv
      · next hfree =>
        split at hv
        · next e rest hc =>
          have hexec := exec_decodeElem_transaction (e := e) (s := { s with cmd := rest }) hl hfree
          rw [hexec] at hv
          cases hv
          exact ⟨_, .element e rest hl hc hfree, hquiet _⟩
        · exact ⟨v, controllerT_cases hl hv, hquiet v⟩
      · exact ⟨v, controllerT_cases hl hv, hquiet v⟩
  | cycle =>
    by_cases hr : reinitWritten s = true
    · obtain ⟨hw, hop⟩ := reinitWritten_iff.mp hr
      rw [step_reinit ha hw hop] at h
      have hdec : decodeHost ((ctrlOp s).setWidth 32) = .reinit := by rw [hop]; rfl
      refine ⟨s, coreReset s, .stay (.inr hr), ?_, (Host.Outcome.next.inj h).symm⟩
      rw [hostAccess_ctrlWritten s hw, if_pos (.inr hdec), hdec, exec_reinit]
    · rw [step_cycle ha hl (Bool.eq_false_iff.mpr hr)] at h
      obtain ⟨u, hu, h⟩ := onNext_next h
      obtain ⟨v, hv, h⟩ := onNext_next h
      exact ⟨u, v, agentsTick_cases hl hu, hv, (Host.Outcome.next.inj h).symm⟩

/-! ### The host's part -/

/-- Everything a host access can do: nothing, a read, a REINIT, an accepted command (R81, R82, R300 to R305). -/
inductive HostMove (s u : State) : State → Prop
  | nothing (h : clearsFlags s = false) : HostMove s u u
  | read (h : clearsFlags s = false) : HostMove s u (hostRead s s.ports.host.hAddr u)
  | reinit (hw : ctrlWritten s = true) (hop : ctrlOp s = 3) : HostMove s u (coreReset u)
  | accept (q : Seq) (hw : ctrlWritten s = true) (hs : s.seq = .hostIdle)
      (hop : (ctrlOp s = 1 ∧ q = .discoverStart) ∨ (ctrlOp s = 2 ∧ q = .sampleStart)) : HostMove s u (acceptCommand q u)

/-- A write of a word other than CTRL is ignored (R82). -/
theorem hostAccess_otherWrite {s : State} (u : State) (hsel : s.ports.host.hSel = true) (hwe : s.ports.host.hWe = true)
    (ha : s.ports.host.hAddr ≠ 0) : hostAccess s u = .next u := by
  simp only [hostAccess, hsel, hwe, if_true, if_neg ha]

/-- A host access always completes. -/
theorem hostAccess_next (s u : State) : ∃ v, hostAccess s u = .next v ∧ HostMove s u v := by
  by_cases hw : ctrlWritten s = true
  · rw [hostAccess_ctrlWritten u hw]
    have hclears : clearsFlags s = (ctrlOp s == 3 || (s.seq == .hostIdle && (ctrlOp s == 1 || ctrlOp s == 2))) := by
      rw [clearsFlags, hw, Bool.true_and]
    have hop : ctrlOp s = 0 ∨ ctrlOp s = 1 ∨ ctrlOp s = 2 ∨ ctrlOp s = 3 := by
      generalize ctrlOp s = op
      revert op
      decide
    by_cases hs : s.seq = .hostIdle
    · rw [if_pos (.inl hs)]
      obtain h | h | h | h := hop
      · exact ⟨u, by rw [h]; rfl, .nothing (by rw [hclears, h]; simp)⟩
      · exact ⟨_, by rw [h]; rfl, .accept _ hw hs (.inl ⟨h, rfl⟩)⟩
      · exact ⟨_, by rw [h]; rfl, .accept _ hw hs (.inr ⟨h, rfl⟩)⟩
      · exact ⟨_, by rw [h]; rfl, .reinit hw h⟩
    · have hidle : (s.seq == .hostIdle) = false := beq_false_of_ne hs
      obtain h | h | h | h := hop
      · exact ⟨u, by rw [h, if_neg (not_or.mpr ⟨hs, by decide⟩)], .nothing (by rw [hclears, h, hidle]; rfl)⟩
      · exact ⟨u, by rw [h, if_neg (not_or.mpr ⟨hs, by decide⟩)], .nothing (by rw [hclears, h, hidle]; rfl)⟩
      · exact ⟨u, by rw [h, if_neg (not_or.mpr ⟨hs, by decide⟩)], .nothing (by rw [hclears, h, hidle]; rfl)⟩
      · exact ⟨_, by rw [h, if_pos (.inr rfl)]; rfl, .reinit hw h⟩
  · have hclears : clearsFlags s = false := by rw [clearsFlags, Bool.eq_false_iff.mpr hw, Bool.false_and]
    rw [ctrlWritten_iff] at hw
    cases hsel : s.ports.host.hSel
    · exact ⟨u, hostAccess_unselected hsel, .nothing hclears⟩
    · cases hwe : s.ports.host.hWe
      · exact ⟨_, by simp [hostAccess, hsel, hwe], .read hclears⟩
      · have haddr : s.ports.host.hAddr ≠ 0 := fun ha => hw ⟨hsel, hwe, ha⟩
        exact ⟨u, hostAccess_otherWrite u hsel hwe haddr, .nothing hclears⟩

/-- Everything a step of the agents can be, the host's part included. -/
theorem step_agents {s t : State} (ha : s.agentsMove) (h : step s = .next t) :
    ∃ u v, AgentMove s u ∧ HostMove s u v ∧ t = showLine (nextCycle v) := by
  obtain ⟨u, v, hu, hv, ht⟩ := step_agents_cases ha h
  obtain ⟨v', hv', hmove⟩ := hostAccess_next s u
  cases hv.symm.trans hv'
  exact ⟨u, v, hu, hmove, ht⟩

/-- Without a REINIT write the host's part changes the flags, `CTL.seq`, what a read shows and the draws alone, and the
first two only by an accepted command. -/
theorem HostMove.frame {s u v : State} (h : HostMove s u v) (hr : ctrlWritten s = true → ctrlOp s ≠ 3) :
    ∃ f q d p, v = { u with flags := f, seq := q, draws := d, ports := p } ∧
      (s.seq ≠ .hostIdle ∨ ctrlWritten s = false → f = u.flags ∧ q = u.seq) := by
  cases h with
  | nothing => exact ⟨_, _, _, _, rfl, fun _ => ⟨rfl, rfl⟩⟩
  | read => exact ⟨_, _, _, _, rfl, fun _ => ⟨rfl, rfl⟩⟩
  | reinit hw hop => exact absurd hop (hr hw)
  | accept q hw hs =>
    have hno : s.seq ≠ .hostIdle ∨ ctrlWritten s = false → False := by simp [hs, hw]
    unfold acceptCommand
    split
    · exact ⟨_, _, _, _, rfl, fun h => (hno h).elim⟩
    · exact ⟨_, _, _, _, rfl, fun h => (hno h).elim⟩

/-! ### A step of the agents part by part -/

/-- The one induction over a step of the agents: a property of a state that every part keeps. -/
theorem AgentMove.keeps {s u : State} (P : State → Prop) (h : AgentMove s u) (hs : P s)
    (element : ∀ e rest, s.cmd = e :: rest → engineFree s = true → P (performElem e { s with cmd := rest }))
    (timers : P (tickTimers s))
    (control : ∀ ex gd s' w v, s' = s ∨ s' = tickTimers s → CtlStep ex gd s' w v → P v)
    (wait : ∀ v n d, P v → P { v with ctlWait := n, draws := d })
    (reinit : ∀ w v, P v → P (engineReinit w v)) (tick : ∀ a b v, P v → P (engineTick a b v)) : P u := by
  have hlat : ∀ v, P v → P (loadLatency v) := by
    intro v hv
    unfold loadLatency
    split
    · exact wait v _ v.draws hv
    · exact wait v _ _ hv
  cases h with
  | stay => exact hs
  | element e rest hl hc hfree => exact element e rest hc hfree
  | control w v hl hc =>
    have hv := control _ _ s w v (.inl rfl) hc
    cases w with
    | none => exact hv
    | some w => exact reinit w v hv
  | wait n hl => exact tick _ _ _ (wait _ n s.draws timers)
  | tick v hl hc => exact tick _ _ _ (hlat v (control _ _ _ _ v (.inr rfl) hc))
  | reframe w v hl hc => exact reinit w _ (hlat v (control _ _ _ _ v (.inr rfl) hc))

end Sys2Proof.Machine
end

section
/-! PROOFS. The core cannot be stopped: CONTROLLER, the channels and ENGINE stay in step, so that a SET_FRAMING finds ENGINE
quiescent (R87, R243, R308, R336, R373). -/

namespace Sys2Proof.Machine

/-! ### What stands between CONTROLLER and ENGINE -/

/-- The channels and ENGINE while CONTROLLER waits for the result of the operation at p: the element is in CMD, in flight,
or its result is in RES. -/
abbrev AwaitsResult (p : Place) (cmd : List Elem) (res : List Byte) (ph : Phase) : Prop :=
  (cmd.length = 1 ∧ cmd.all (fun e => elemRst e == p.isReset) = true ∧ res = [] ∧ ph.delivered = true) ∨
  (cmd = [] ∧ res = [] ∧ (if p.isReset then ph.resetInFlight else ph.xferInFlight) = true) ∨
  (cmd = [] ∧ res.length = 1 ∧ (ph = .idle ∨ (p.isReset = true ∧ ph = .rstRec)))

/-- The part of `State.flowOk` that a step of ENGINE or CONTROLLER could change. -/
abbrev PlaceFlow (q : Seq) (cmd : List Elem) (res : List Byte) (ph : Phase) : Prop :=
  match q with
  | .pop p => AwaitsResult p cmd res ph
  | .hostIdle | .discoverStart | .searchStart | .searchExit | .sampleStart | .readAll | .dev | .sampleDone | .push _
  | .pollGap => cmd = [] ∧ res = [] ∧ ph.delivered = true

theorem flowOk_iff {s : State} : s.flowOk ↔ s.par.wf ∧ s.issue = none ∧ s.framing = s.seq.framing ∧
    (s.level = .transaction → s.eng.phase = .idle) ∧ PlaceFlow s.seq s.cmd s.res s.eng.phase := by
  unfold State.flowOk
  cases s.seq <;> exact Iff.rfl

/-- A state as legal as s: the constants are those of s, ENGINE is in IDLE where s is, the place has its framing, and the
channels and ENGINE stand as it wants them. -/
theorem flowOk_of {s t : State} {c : List Elem} {r : List Byte} {ph : Phase} (hs : s.flowOk) (hpar : t.par = s.par)
    (hiss : t.issue = s.issue) (hlevel : t.level = s.level) (hframe : t.framing = t.seq.framing) (hc : t.cmd = c)
    (hr : t.res = r) (hph : t.eng.phase = ph) (hidle : s.eng.phase = .idle → ph = .idle)
    (hflow : PlaceFlow t.seq c r ph) : t.flowOk := by
  obtain ⟨h1, h2, -, h4, -⟩ := hs
  subst hc hr hph
  exact flowOk_iff.mpr ⟨hpar ▸ h1, hiss.trans h2, hframe, fun hl => hidle (h4 (hlevel.symm.trans hl)), hflow⟩

/-- Where CONTROLLER does not wait for a result nothing is under way. -/
theorem placeFlow_rest {q : Seq} {ph : Phase} (hq : ∀ p, q ≠ .pop p) (hph : ph.delivered = true) :
    PlaceFlow q [] [] ph := by
  cases q
  case pop p => exact absurd rfl (hq p)
  all_goals exact ⟨rfl, rfl, hph⟩

theorem placeFlow_rest_cases {q : Seq} {cmd : List Elem} {res : List Byte} {ph : Phase} (hq : ∀ p, q ≠ .pop p)
    (h : PlaceFlow q cmd res ph) : cmd = [] ∧ res = [] ∧ ph.delivered = true := by
  cases q
  case pop p => exact absurd rfl (hq p)
  all_goals exact h

/-! ### CONTROLLER's step -/

/-- After a pop CONTROLLER runs on to its next push or wait (R20). -/
theorem afterPop_seq_ne_pop (ex : Bool) (p : Place) (r : Byte) (s : State) (p' : Place) :
    (afterPop ex p r s).seq ≠ .pop p' := by
  have hdev : ∀ u : State, (atDev u).seq ≠ .pop p' := fun u => by
    rw [atDev_seq]
    split <;> simp
  cases p <;> simp only [afterPop]
  case passReset | sampleReset => rw [raiseIf_seq]; split <;> simp
  case readB2 => split <;> simp
  case writeDir =>
    split
    · simp
    · obtain ⟨-, h⟩ | ⟨-, -, h⟩ | ⟨-, -, h⟩ := recordPass_cases { s with rs := takeDir s.rs } <;> rw [h] <;> simp
  case pollRead =>
    repeat' split
    · exact hdev _
    · exact hdev _
    · simp
  case addrByte => split <;> simp
  case spByte =>
    split
    · simp
    · exact hdev _
  all_goals simp

/-- The framing of the place reached after a pop is the old place's, or that of the SET_FRAMING on the way (R243). -/
theorem afterPop_seq_framing (ex : Bool) (p : Place) (r : Byte) (s : State) :
    (afterPop ex p r s).seq.framing = (popFraming p r s).getD (Seq.pop p).framing := by
  have hdev : ∀ u : State, (atDev u).seq.framing = .w8 := fun u => by
    rw [atDev_seq]
    split <;> rfl
  cases p <;> simp only [afterPop, popFraming]
  case passReset | sampleReset => rw [raiseIf_seq]; split <;> rfl
  case readB2 => split <;> rfl
  case writeDir =>
    split
    · rfl
    · obtain ⟨-, h⟩ | ⟨-, -, h⟩ | ⟨-, -, h⟩ := recordPass_cases { s with rs := takeDir s.rs } <;> rw [h] <;> rfl
  case pollRead =>
    repeat' split
    · exact hdev _
    · exact hdev _
    · rfl
  case addrByte => split <;> rfl
  case spByte =>
    split
    · rfl
    · exact hdev _
  all_goals rfl

/-- A SET_FRAMING follows transfers only, whose result comes with ENGINE in IDLE (R177, R233, R235, R243). -/
theorem popFraming_isReset {p : Place} {r : Byte} {s : State} (h : popFraming p r s ≠ none) : p.isReset = false := by
  cases p
  case searchCmd | readB2 | writeDir => rfl
  all_goals exact absurd rfl h

theorem placeElem_isReset (p : Place) (s : State) : elemRst (placeElem p s) = p.isReset := by
  cases p <;> simp [placeElem, Place.isReset]

/-- In flow, a result to pop is the one element that was under way. -/
theorem flowOk_pop {s : State} {p : Place} {r : Byte} {rest : List Byte} (hs : s.flowOk) (hp : s.seq = .pop p)
    (hr : s.res = r :: rest) :
    s.cmd = [] ∧ rest = [] ∧ (s.eng.phase = .idle ∨ (p.isReset = true ∧ s.eng.phase = .rstRec)) := by
  obtain ⟨-, -, -, -, hflow⟩ := flowOk_iff.mp hs
  rw [hp, hr] at hflow
  obtain ⟨-, -, h, -⟩ | ⟨-, h, -⟩ | ⟨hc, hlen, hph⟩ := hflow
  · cases h
  · cases h
  · exact ⟨hc, List.length_eq_zero_iff.mp (Nat.succ.inj hlen), hph⟩

/-- CONTROLLER's step keeps the agents in step, and a SET_FRAMING in it finds ENGINE quiescent. -/
theorem flowOk_ctlStep {ex gd : Bool} {s t : State} {w : Option Framing} (hs : s.flowOk) (h : CtlStep ex gd s w t) :
    (reframed w t).flowOk ∧ (w ≠ none → quiescent t = true) := by
  obtain ⟨hpar, hiss, hframe, hT, hflow⟩ := flowOk_iff.mp hs
  have hrest : (∀ p, s.seq ≠ .pop p) → s.cmd = [] ∧ s.res = [] ∧ s.eng.phase.delivered = true := fun hq =>
    placeFlow_rest_cases hq hflow
  cases h with
  | discoverStart hq | searchStart hq | searchExit hq | sampleStart hq | sampleDone hq | pollGap hq hdone =>
    obtain ⟨hc, hr, hph⟩ := hrest (by simp [hq])
    have hat := hframe.trans (congrArg Seq.framing hq)
    exact ⟨flowOk_of hs rfl rfl rfl hat hc hr rfl id ⟨rfl, rfl, hph⟩,
      fun h => absurd rfl h⟩
  | readAll hq | dev hq =>
    obtain ⟨hc, hr, hph⟩ := hrest (by simp [hq])
    refine ⟨flowOk_of hs rfl rfl rfl ?_ hc hr rfl id ?_, fun h => absurd rfl h⟩
    · refine hframe.trans ((congrArg Seq.framing hq).trans ?_)
      simp only [reframed, atReadAll, atDev_seq]
      split <;> rfl
    · simp only [reframed, atReadAll, atDev_seq, atDev_eng]
      split <;> exact ⟨rfl, rfl, hph⟩
  | push p hq hroom =>
    obtain ⟨hc, hr, hph⟩ := hrest (by simp [hq])
    have hcmd : s.cmd ++ [placeElem p s] = [placeElem p s] := by rw [hc]; rfl
    have hat := hframe.trans (congrArg Seq.framing hq)
    refine ⟨flowOk_of hs rfl rfl rfl hat hcmd hr rfl id
      (.inl ⟨rfl, ?_, rfl, hph⟩), fun h => absurd rfl h⟩
    simp [placeElem_isReset]
  | pop p r rest hq hr =>
    obtain ⟨hc, rfl, hph⟩ := flowOk_pop hs hq hr
    have hdelivered : s.eng.phase.delivered = true := by
      obtain h | ⟨-, h⟩ := hph <;> rw [h] <;> rfl
    obtain ⟨ho, hcmd, hres⟩ := afterPop_outside ex p r { s with res := [] }
    have hseq := afterPop_seq_framing ex p r { s with res := [] }
    have hflow' : ∀ ph : Phase, ph.delivered = true → PlaceFlow (afterPop ex p r { s with res := [] }).seq [] [] ph :=
      fun ph => placeFlow_rest (afterPop_seq_ne_pop ex p r _)
    cases hw : popFraming p r { s with res := [] } with
    | none =>
      rw [hw] at hseq
      exact ⟨flowOk_of hs ho.par ho.issue ho.level
        (ho.framing.trans (hframe.trans ((congrArg Seq.framing hq).trans hseq.symm))) (hcmd.trans hc) hres
        (congrArg Engine.phase ho.eng) id (hflow' _ hdelivered), fun h => absurd rfl h⟩
    | some v =>
      rw [hw] at hseq
      have hidle : s.eng.phase = .idle := by
        obtain h | ⟨hreset, -⟩ := hph
        · exact h
        · rw [popFraming_isReset (by rw [hw]; simp)] at hreset
          cases hreset
      exact ⟨flowOk_of hs ho.par ho.issue ho.level hseq.symm rfl rfl rfl (fun _ => rfl) (hflow' _ rfl),
        fun _ => (quiescent_iff _).mpr ⟨(congrArg Engine.phase ho.eng).trans hidle, hcmd.trans hc, hres⟩⟩

/-! ### ENGINE's step -/

/-- An element performed in one step at Level T puts its result where CONTROLLER waits for it. -/
theorem flowOk_performElem {s : State} {e : Elem} {rest : List Elem} (hs : s.flowOk) (hl : s.level = .transaction)
    (hc : s.cmd = e :: rest) : (performElem e { s with cmd := rest }).flowOk := by
  obtain ⟨hpar, hiss, hframe, hT, hflow⟩ := flowOk_iff.mp hs
  obtain ⟨p, hp⟩ : ∃ p, s.seq = .pop p := by
    by_contra hno
    obtain ⟨h, -⟩ := placeFlow_rest_cases (fun p hp => hno ⟨p, hp⟩) hflow
    simp [hc] at h
  rw [hp, hc] at hflow
  obtain ⟨hlen, -, hr, -⟩ | ⟨h, -⟩ | ⟨h, -⟩ := hflow
  · obtain rfl : rest = [] := List.length_eq_zero_iff.mp (Nat.succ.inj hlen)
    obtain ⟨r, hres⟩ := performElem_res e { s with cmd := [] }
    have hone : (performElem e { s with cmd := [] }).res = [r] := hres.trans (congrArg (· ++ [r]) hr)
    have hseq := performElem_seq e { s with cmd := [] }
    have heng := performElem_eng e (s := { s with cmd := [] }) hl
    refine flowOk_of hs (performElem_par e _) (performElem_issue e _) (performElem_level e _)
      ((performElem_framing e _).trans (hframe.trans (congrArg Seq.framing hseq.symm)))
      (performElem_cmd e _) hone (congrArg Engine.phase heng) id ?_
    rw [hseq, hp]
    exact .inr (.inr ⟨rfl, rfl, .inl (hT hl)⟩)
  · cases h
  · cases h

/-- A timed phase stays or makes its exit. -/
theorem timed_phase {exit : State → State} {s : State} {P : Phase → Prop} (hs : P s.eng.phase)
    (hexit : P (exit s).eng.phase) : P (timed exit s).eng.phase := by
  unfold timed
  split
  · exact hs
  · exact hexit

theorem timed_channels {exit : State → State} {s : State} (hexit : (exit s).cmd = s.cmd ∧ (exit s).res = s.res) :
    (timed exit s).cmd = s.cmd ∧ (timed exit s).res = s.res := by
  unfold timed
  split
  · exact ⟨rfl, rfl⟩
  · exact hexit

theorem delivered_iff {ph : Phase} : ph.delivered = true ↔ ph = .idle ∨ ph = .rstRec := by
  cases ph <;> simp [Phase.delivered]

theorem resetInFlight_iff {ph : Phase} : ph.resetInFlight = true ↔ ph = .rstLow ∨ ph = .rstWait ∨ ph = .rstPush := by
  cases ph <;> simp [Phase.resetInFlight]

theorem xferInFlight_iff {ph : Phase} : ph.xferInFlight = true ↔
    ph = .slLow ∨ ph = .slWait1 ∨ ph = .slPad1 ∨ ph = .slHold0 ∨ ph = .slRec ∨ ph = .elPush := by
  cases ph <;> simp [Phase.xferInFlight]

/-- The exits inside a slot leave the channels and stay in flight (R171, R175). -/
theorem exitSlLow_inFlight (s : State) :
    ((exitSlLow s).cmd = s.cmd ∧ (exitSlLow s).res = s.res) ∧ (exitSlLow s).eng.phase.xferInFlight = true := by
  unfold exitSlLow
  split <;> exact ⟨⟨rfl, rfl⟩, rfl⟩

theorem exitSlRec_inFlight (s : State) :
    ((exitSlRec s).cmd = s.cmd ∧ (exitSlRec s).res = s.res) ∧ (exitSlRec s).eng.phase.xferInFlight = true := by
  unfold exitSlRec
  dsimp only
  split <;> exact ⟨⟨rfl, rfl⟩, rfl⟩

/-- With CMD empty and no result to deliver ENGINE stays in IDLE or in the recovery. -/
theorem engineTick_rest {a b : Bool} {s : State} (hc : s.cmd = []) (hph : s.eng.phase.delivered = true) :
    (engineTick a b s).cmd = [] ∧ (engineTick a b s).res = s.res ∧ (engineTick a b s).eng.phase.delivered = true ∧
      (s.eng.phase = .idle → (engineTick a b s).eng.phase = .idle) := by
  unfold engineTick
  obtain hp | hp := delivered_iff.mp hph <;> rw [hp]
  · cases a <;> simp [hc, hp, Phase.delivered]
  · obtain ⟨h1, h2⟩ := timed_channels (exit := exitRstRec) (s := s) ⟨rfl, rfl⟩
    refine ⟨h1.trans hc, h2, ?_, nofun⟩
    exact timed_phase (P := fun ph => ph.delivered = true) hph rfl

/-- ENGINE takes the element that CONTROLLER waits for from CMD, when it is in IDLE (R166). -/
theorem awaitsResult_engineTick_cmd {a b : Bool} {s : State} {p : Place} {e : Elem} (hc : s.cmd = [e])
    (helem : elemRst e = p.isReset) (hr : s.res = []) (hph : s.eng.phase.delivered = true) :
    AwaitsResult p (engineTick a b s).cmd (engineTick a b s).res (engineTick a b s).eng.phase := by
  unfold engineTick
  obtain hp | hp := delivered_iff.mp hph <;> rw [hp]
  · cases a
    · exact .inl ⟨congrArg List.length hc, by simp [hc, helem], hr, hph⟩
    · rw [if_pos rfl, hc]
      refine .inr (.inl ?_)
      simp only [startElem, helem]
      cases p.isReset
      · exact ⟨rfl, hr, rfl⟩
      · exact ⟨rfl, hr, rfl⟩
  · obtain ⟨h1, h2⟩ := timed_channels (exit := exitRstRec) (s := s) ⟨rfl, rfl⟩
    dsimp only
    rw [h1, h2]
    exact .inl ⟨congrArg List.length hc, by simp [hc, helem], hr,
      timed_phase (P := fun ph => ph.delivered = true) hph rfl⟩

/-- ENGINE takes the element in flight through its phases to RES (R167 to R177). -/
theorem awaitsResult_engineTick_inFlight {a b : Bool} {s : State} {p : Place} (hc : s.cmd = []) (hr : s.res = [])
    (hph : (if p.isReset then s.eng.phase.resetInFlight else s.eng.phase.xferInFlight) = true) :
    AwaitsResult p (engineTick a b s).cmd (engineTick a b s).res (engineTick a b s).eng.phase := by
  have hpush : ∀ g : Engine, (g.phase = .idle ∨ (p.isReset = true ∧ g.phase = .rstRec)) →
      AwaitsResult p (setEngine g (pushRes s.eng.isr s)).cmd (setEngine g (pushRes s.eng.isr s)).res g.phase :=
    fun g hg => .inr (.inr ⟨hc, by simp [hr], hg⟩)
  have hflight : ∀ {exit : State → State}, (exit s).cmd = s.cmd ∧ (exit s).res = s.res →
      (if p.isReset then (exit s).eng.phase.resetInFlight else (exit s).eng.phase.xferInFlight) = true →
      AwaitsResult p (timed exit s).cmd (timed exit s).res (timed exit s).eng.phase := by
    intro exit hch hexit
    obtain ⟨h1, h2⟩ := timed_channels hch
    rw [h1, h2]
    exact .inr (.inl ⟨hc, hr,
      timed_phase (P := fun ph => (if p.isReset then ph.resetInFlight else ph.xferInFlight) = true) hph hexit⟩)
  have hstay : AwaitsResult p s.cmd s.res s.eng.phase := .inr (.inl ⟨hc, hr, hph⟩)
  unfold engineTick
  cases hreset : p.isReset <;> rw [hreset] at hph hflight hpush
  · have hslot : ∀ {exit : State → State},
        ((exit s).cmd = s.cmd ∧ (exit s).res = s.res) ∧ (exit s).eng.phase.xferInFlight = true →
        AwaitsResult p (timed exit s).cmd (timed exit s).res (timed exit s).eng.phase :=
      fun h => hflight h.1 h.2
    obtain hp | hp | hp | hp | hp | hp := xferInFlight_iff.mp hph <;> rw [hp]
    · exact hslot (exitSlLow_inFlight s)
    · exact hslot ⟨⟨busSlot_cmd true s, busSlot_res true s⟩, rfl⟩
    · exact hslot ⟨⟨rfl, rfl⟩, rfl⟩
    · exact hslot ⟨⟨busSlot_cmd false s, busSlot_res false s⟩, rfl⟩
    · exact hslot (exitSlRec_inFlight s)
    · cases b
      · exact hstay
      · exact hpush _ (.inl rfl)
  · obtain hp | hp | hp := resetInFlight_iff.mp hph <;> rw [hp]
    · exact hflight ⟨rfl, rfl⟩ rfl
    · exact hflight ⟨busReset_cmd s, busReset_res s⟩ rfl
    · cases b
      · exact hstay
      · exact hpush _ (.inr ⟨rfl, rfl⟩)

/-- ENGINE's tick takes the element CONTROLLER waits for through its phases to RES (R165 to R177). -/
theorem awaitsResult_engineTick {a b : Bool} {s : State} {p : Place} (h : AwaitsResult p s.cmd s.res s.eng.phase) :
    AwaitsResult p (engineTick a b s).cmd (engineTick a b s).res (engineTick a b s).eng.phase := by
  obtain ⟨hlen, helem, hr, hph⟩ | ⟨hc, hr, hph⟩ | ⟨hc, hlen, hph⟩ := h
  · obtain ⟨e, hc⟩ := List.length_eq_one_iff.mp hlen
    rw [hc, List.all_cons, List.all_nil, Bool.and_true, beq_iff_eq] at helem
    exact awaitsResult_engineTick_cmd hc helem hr hph
  · exact awaitsResult_engineTick_inFlight hc hr hph
  · have hdelivered : s.eng.phase.delivered = true := delivered_iff.mpr (hph.imp id And.right)
    obtain ⟨h1, h2, h3, h4⟩ := engineTick_rest (a := a) (b := b) hc hdelivered
    refine .inr (.inr ⟨h1, h2 ▸ hlen, ?_⟩)
    obtain h | ⟨hreset, -⟩ := hph
    · exact .inl (h4 h)
    · exact (delivered_iff.mp h3).imp id (And.intro hreset)

/-- ENGINE's tick at Level C keeps the agents in step. -/
theorem flowOk_engineTick {a b : Bool} {s : State} (hs : s.flowOk) (hl : s.level = .cycle) :
    (engineTick a b s).flowOk := by
  obtain ⟨hpar, hiss, hframe, -, hflow⟩ := flowOk_iff.mp hs
  have hplace : PlaceFlow s.seq (engineTick a b s).cmd (engineTick a b s).res (engineTick a b s).eng.phase := by
    cases hq : s.seq <;> rw [hq] at hflow
    case pop p => exact awaitsResult_engineTick hflow
    all_goals
      obtain ⟨hc, hr, hph⟩ := hflow
      obtain ⟨h1, h2, h3, -⟩ := engineTick_rest (a := a) (b := b) hc hph
      exact ⟨h1, h2.trans hr, h3⟩
  have hlevel : ∀ {P : Prop}, s.level = .transaction → P := fun h => nomatch hl.symm.trans h
  obtain ⟨g, b', d, o, c, q, ht, -⟩ := engineTick_change a b s
  rw [ht] at hplace ⊢
  exact flowOk_iff.mpr ⟨hpar, hiss, hframe, hlevel, hplace⟩

end Sys2Proof.Machine
end

section
/-! PROOFS. No host and no bus can stop the core (R308, R336, R373). -/

namespace Sys2Proof.Machine

/-! ### Every step answers -/

theorem controllerT_answers {s : State} (hs : s.flowOk) : ∃ u, controllerT s = .next u := by
  unfold controllerT
  cases hc : ctlStep (pollExhausted s) true s with
  | none => exact ⟨_, rfl⟩
  | some x =>
    obtain ⟨w, v⟩ := x
    cases w with
    | none => exact ⟨_, rfl⟩
    | some w => exact ⟨_, exec_setFraming_quiescent _ ((flowOk_ctlStep hs (ctlStep_cases hc)).2 (by simp))⟩

theorem stepT_answers {s : State} (hs : s.flowOk) (hl : s.level = .transaction) : ∃ u, stepT s = .next u := by
  unfold stepT
  split
  · obtain ⟨v, hv, -⟩ := hostAccess_next s s
    exact ⟨v, hv⟩
  · split
    · next hfree =>
      split
      · next e rest hc => exact ⟨_, exec_decodeElem_transaction (s := { s with cmd := rest }) hl hfree⟩
      · exact controllerT_answers hs
    · exact controllerT_answers hs

theorem agentsTick_answers {s : State} (hs : s.flowOk) : ∃ u, agentsTick s = .next u := by
  unfold agentsTick
  obtain h | h | ⟨w, v, hc, h⟩ := controllerC_cases s <;> rw [h]
  · exact ⟨_, rfl⟩
  · exact ⟨_, rfl⟩
  · cases w with
    | none => exact ⟨_, rfl⟩
    | some w =>
      have hq : quiescent v = true := (flowOk_ctlStep (s := tickTimers s) hs (ctlStep_cases hc)).2 (by simp)
      have hq' : quiescent (loadLatency v) = true := by
        unfold loadLatency
        split <;> exact hq
      exact ⟨_, exec_setFraming_quiescent _ hq'⟩

theorem step_answers {s : State} (hs : s.flowOk) (ha : s.agentsMove) : ∃ t, step s = .next t := by
  cases hl : s.level with
  | transaction =>
    obtain ⟨u, hu⟩ := stepT_answers hs hl
    exact ⟨_, (step_transaction ha hl).trans (congrArg (onNext · _) hu)⟩
  | cycle =>
    cases hr : reinitWritten s
    · obtain ⟨u, hu⟩ := agentsTick_answers hs
      obtain ⟨v, hv, -⟩ := hostAccess_next s u
      refine ⟨showLine (nextCycle v), ?_⟩
      rw [step_cycle ha hl hr, hu, onNext, hv]
      rfl
    · obtain ⟨hw, hop⟩ := reinitWritten_iff.mp hr
      exact ⟨_, step_reinit ha hw hop⟩

/-! ### Every step keeps the agents in step -/

theorem flowOk_loadLatency {s : State} (hs : s.flowOk) : (loadLatency s).flowOk := by
  unfold loadLatency
  split <;> exact hs

theorem flowOk_agentMove {s u : State} (hs : s.flowOk) (h : AgentMove s u) : u.flowOk := by
  cases h with
  | stay => exact hs
  | element e rest hl hc hfree => exact flowOk_performElem hs hl hc
  | control w v hl hc => exact (flowOk_ctlStep hs hc).1
  | wait n hl => exact flowOk_engineTick (s := { tickTimers s with ctlWait := n }) hs hl
  | tick v hl hc =>
    have hv : v.flowOk := (flowOk_ctlStep (s := tickTimers s) hs hc).1
    have hlevel : (loadLatency v).level = .cycle := by
      rw [loadLatency_level]
      exact hc.level.trans hl
    exact flowOk_engineTick (flowOk_loadLatency hv) hlevel
  | reframe w v hl hc =>
    rw [engineReinit_loadLatency]
    exact flowOk_loadLatency (flowOk_ctlStep (s := tickTimers s) hs hc).1

theorem flowOk_coreReset {s : State} (hs : s.flowOk) : (coreReset s).flowOk := by
  obtain ⟨hpar, hiss, -⟩ := flowOk_iff.mp hs
  exact flowOk_iff.mpr ⟨hpar, hiss, rfl, fun _ => rfl, rfl, rfl, rfl⟩

theorem flowOk_hostRead {s b : State} {a : BitVec 10} (hs : s.flowOk) : (hostRead b a s).flowOk := hs

/-- An accepted command starts a sequence where none ran (R302, R303). -/
theorem flowOk_acceptCommand {q : Seq} {s : State} (hs : s.flowOk) (hq : q = .discoverStart ∨ q = .sampleStart) :
    (acceptCommand q s).flowOk := by
  unfold acceptCommand
  split
  · next hseq =>
    obtain ⟨hpar, hiss, hframe, hT, hflow⟩ := flowOk_iff.mp hs
    rw [hseq] at hframe hflow
    obtain rfl | rfl := hq <;> exact flowOk_iff.mpr ⟨hpar, hiss, hframe, hT, hflow⟩
  · exact hs

theorem flowOk_hostMove {s u v : State} (hu : u.flowOk) (h : HostMove s u v) : v.flowOk := by
  cases h with
  | nothing => exact hu
  | read => exact flowOk_hostRead hu
  | reinit => exact flowOk_coreReset hu
  | accept q hw hs hop => exact flowOk_acceptCommand hu (hop.imp And.right And.right)

theorem flowOk_showLine_nextCycle {s : State} (hs : s.flowOk) : (showLine (nextCycle s)).flowOk := by
  have hn : (nextCycle s).flowOk := by
    unfold nextCycle
    split <;> exact hs
  unfold showLine
  split <;> exact hn

theorem flowOk_resetTick {s : State} (hs : s.flowOk) : (resetTick s).flowOk := by
  unfold resetTick
  dsimp only
  split
  · exact flowOk_hostRead (flowOk_coreReset hs)
  · exact flowOk_coreReset hs

theorem step_rst {s : State} (h : s.ports.host.rst = true) : step s = .next (showLine (nextCycle (resetTick s))) := by
  unfold step machineStep moves
  rw [if_pos h]
  rfl

/-- Settles O50: the agents stay in step, so that every SET_FRAMING finds ENGINE quiescent. -/
theorem noHostAndNoBusCanStopTheCore : Obligations.NoHostAndNoBusCanStopTheCore := by
  unfold Obligations.NoHostAndNoBusCanStopTheCore
  intro s hs
  cases hrst : s.ports.host.rst
  · have ha : s.agentsMove := ⟨hrst, (flowOk_iff.mp hs).2.1⟩
    obtain ⟨t, ht⟩ := step_answers hs ha
    obtain ⟨u, v, hu, hv, rfl⟩ := step_agents ha ht
    exact ⟨_, ht, flowOk_showLine_nextCycle (flowOk_hostMove (flowOk_agentMove hs hu) hv)⟩
  · exact ⟨_, step_rst hrst, flowOk_showLine_nextCycle (flowOk_resetTick hs)⟩

end Sys2Proof.Machine
end

section
/-! PROOFS. The host port: the reset input, the STATUS word, reads and ignored writes (R54, R81, R82, R101, R360). -/

namespace Sys2Proof.Machine

/-! ### The reset input -/

/-- A tick with `rst` = 1 gives the reset state; a read shows the reset state's word, which is 0 (R64, R360). -/
theorem resetTick_eq (s : State) : resetTick s = { coreReset s with
    ports := { s.ports with hRdata := if s.ports.host.hSel && !s.ports.host.hWe then 0#32 else s.ports.hRdata } } := by
  have hword : ∀ a : BitVec 10, hostWord (coreReset s) a.toNat (coreReset s).draws = 0 :=
    (resetStateReadsZeroAndStays _ (atReset_coreReset s)).1
  unfold resetTick
  dsimp only
  split
  · rw [hostRead, hword]
    rfl
  · rfl

/-- Settles O11: the tick is `coreReset` and, for a read, the word 0. -/
theorem resetInputTakesTheResetState : Obligations.ResetInputTakesTheResetState := by
  intro s hrst
  have hreset : (resetTick s).atReset := by
    rw [resetTick_eq]
    exact atReset_coreReset s
  refine ⟨_, step_rst hrst, atReset_showLine_nextCycle hreset, ?_⟩
  rw [resetTick_eq]
  generalize (if s.ports.host.hSel && !s.ports.host.hWe then 0#32 else s.ports.hRdata) = d
  refine ⟨by simp, by simp, by simp, by simp, ?_⟩
  cases hl : s.level <;> cases hi : s.inbox <;> simp [nextCycle, showLine, hl, hi]

/-! ### STATUS -/

theorem getLsbD_bitAt (b : Bool) {i k : Nat} (hi : i < 32) : (bitAt b i).getLsbD k = (b && decide (k = i)) := by
  cases b with
  | false => simp [bitAt]
  | true =>
    rw [bitAt, if_pos rfl, ← BitVec.twoPow_eq, BitVec.getLsbD_twoPow]
    simp [hi, eq_comm]

/-- Each bit of STATUS is that of the one term that has it (R54). -/
theorem getLsbD_statusWord (s : State) (k : Nat) : (statusWord s).getLsbD k =
    (busy s && decide (k = 0) || s.presence && decide (k = 1) || s.flags.busFault && decide (k = 4) ||
      s.flags.searchFault && decide (k = 5) || s.flags.crcMismatch && decide (k = 6) ||
      s.flags.pollTimeout && decide (k = 7) || s.flags.tableFull && decide (k = 8)) := by
  simp only [statusWord, BitVec.getLsbD_or, getLsbD_bitAt _ (show 0 < 32 by decide), getLsbD_bitAt _ (show 1 < 32 by decide),
    getLsbD_bitAt _ (show 4 < 32 by decide), getLsbD_bitAt _ (show 5 < 32 by decide), getLsbD_bitAt _ (show 6 < 32 by decide),
    getLsbD_bitAt _ (show 7 < 32 by decide), getLsbD_bitAt _ (show 8 < 32 by decide)]

/-- Settles O14: the word is the disjunction of its bits. -/
theorem statusWordBits : Obligations.StatusWordBits := by
  intro s k hk
  have hbusy : decide (s.seq ≠ .hostIdle) = busy s := by simp [busy, bne, beq_eq_decide]
  rw [getLsbD_statusWord, hbusy]
  split <;> simp_all

/-! ### Reads while BUSY = 1 -/

theorem hostWord_busy {s : State} (a d : Nat) (h : s.seq ≠ .hostIdle) : hostWord s a d =
    if a = 0x001 then 1#32 ||| (Config.freeWord d &&& 0x1FE#32)
    else if isResultIndex s a then Config.freeWord d else mapWord s a :=
  if_pos (by simp [busy, h])

/-- While BUSY = 1 a reserved word is exact: it reads 0 (R82, R101). -/
theorem hostWord_busy_reserved {s : State} {a : Nat} (d : Nat) (h : s.seq ≠ .hostIdle) (ha : 0x004 ≤ a)
    (hrom : ¬(0x100 ≤ a ∧ a < 0x100 + 2 * s.par.nMax)) (hrdg : ¬(0x200 ≤ a ∧ a < 0x200 + s.par.nMax)) :
    hostWord s a d = 0 := by
  have hres : isResultIndex s a = false := by
    simp only [isResultIndex, Bool.or_eq_false_iff, beq_eq_false_iff_ne, ← Bool.decide_and, decide_eq_false_iff_not]
    exact ⟨⟨⟨by omega, by omega⟩, hrom⟩, hrdg⟩
  rw [hostWord_busy a d h, if_neg (by omega), hres, if_neg (by decide), mapWord_reserved ha hrom hrdg]

/-- Settles O17: of STATUS only bits 8:1 are masked to the free value, and no reserved index is a result word. -/
theorem busyReadsExactly : Obligations.BusyReadsExactly := by
  rintro s d ⟨-, -, ⟨-, hn⟩, -⟩ h
  have hstatus : hostWord s 0x001 d = 1#32 ||| (Config.freeWord d &&& 0x1FE#32) := hostWord_busy _ d h
  refine ⟨?_, fun k hk => ?_, ?_, ?_, ?_, ?_⟩
  · rw [hstatus]
    simp
  · have hbelow : ∀ v : HWord, v.toNat < 2 ^ 9 → v.getLsbD k = false := fun v hv =>
      Nat.testBit_lt_two_pow (hv.trans_le (Nat.pow_le_pow_right (by decide) hk))
    rw [hstatus, BitVec.getLsbD_or, BitVec.getLsbD_and, hbelow 1#32 (by decide), hbelow 0x1FE#32 (by decide),
      Bool.and_false, Bool.false_or]
  · rw [hostWord_busy _ d h]
    rfl
  · exact fun a ha ha' => hostWord_busy_reserved d h ha (by omega) (by omega)
  · exact fun a ha ha' => hostWord_busy_reserved d h (by omega) (by omega) (by omega)
  · exact fun a ha => hostWord_busy_reserved d h (by omega) (by omega) (by omega)

/-! ### Ignored writes and reads -/

theorem reinitWritten_of_not_ctrl {s : State} (h : ctrlWritten s = false) : reinitWritten s = false :=
  Bool.eq_false_iff.mpr fun hr => by simp [(reinitWritten_iff.mp hr).1] at h

/-- Settles O18: such a write has no effect at all. -/
theorem writesBesideCtrlAreIgnored : Obligations.WritesBesideCtrlAreIgnored := by
  intro s ha hl hsel hwe haddr
  have hw : ctrlWritten s = false := Bool.eq_false_iff.mpr fun h => haddr (ctrlWritten_iff.mp h).2.2
  exact step_eq_quiet ha hl (reinitWritten_of_not_ctrl hw) fun v => hostAccess_otherWrite v hsel hwe haddr

/-- Every silent host is as good as an idle one. -/
theorem step_setHost_silent {s : State} {h : HostCycle} (ha : s.agentsMove) (hl : s.level = .cycle)
    (hrst : h.rst = false) (hsel : h.hSel = false) : step (setHost h s) = step (setHost .idle s) := by
  have hr : reinitWritten (setHost h s) = false := reinitWritten_of_not_ctrl (by
    show (h.hSel && h.hWe && h.hAddr == 0) = false
    rw [hsel]
    rfl)
  rw [step_eq_quiet (s := setHost h s) ⟨hrst, ha.2⟩ hl hr fun v => hostAccess_unselected hsel]
  rfl

theorem hostAccess_read {s : State} (u : State) (hsel : s.ports.host.hSel = true) (hwe : s.ports.host.hWe = false) :
    hostAccess s u = .next (hostRead s s.ports.host.hAddr u) := by
  simp [hostAccess, hsel, hwe]

theorem hostRead_hostIdle {s : State} (a : BitVec 10) (v : State) (h : s.seq = .hostIdle) :
    hostRead s a v = { v with ports := { v.ports with hRdata := mapWord s a.toNat } } := by
  simp [hostRead, busy, h, hostWord_hostIdle]

theorem hostRead_busy {s : State} (a : BitVec 10) (v : State) (h : s.seq ≠ .hostIdle) :
    hostRead s a v =
      { v with ports := { v.ports with hRdata := hostWord s a.toNat v.draws }, draws := v.draws + 1 } := by
  simp [hostRead, busy, h]

/-- What a read shows is seen neither by the next inputs nor by the line (R31). -/
theorem showLine_nextCycle_rdata (d : HWord) (v : State) :
    showLine (nextCycle { v with ports := { v.ports with hRdata := d } }) =
      { showLine (nextCycle v) with ports := { (showLine (nextCycle v)).ports with hRdata := d } } := by
  cases hi : v.inbox <;> cases hl : v.level <;> simp [nextCycle, showLine, hi, hl] <;> rfl

/-- A draw is: on a line without a device model `ow_in` then shows the next one (notes/assumptions/9.md). -/
theorem showLine_nextCycle_rdata_draws (d : HWord) (n : Nat) (v : State) :
    showLine (nextCycle { v with ports := { v.ports with hRdata := d }, draws := n }) =
      showLine { showLine (nextCycle v) with
        ports := { (showLine (nextCycle v)).ports with hRdata := d }, draws := n } := by
  cases hi : v.inbox <;> cases hl : v.level <;> simp [nextCycle, showLine, hi, hl] <;> rfl

/-- Settles O16: the read is performed on the state the agents leave, and what it writes no later part of the tick reads,
except that `ow_in` may show the next draw. -/
theorem hostReadReturnsTheWordAndChangesNothing : Obligations.HostReadReturnsTheWordAndChangesNothing := by
  intro s ha hsel hwe
  have hr : reinitWritten s = false := reinitWritten_of_not_ctrl (by rw [ctrlWritten, hwe, Bool.and_false]; rfl)
  have hquiet (hl : s.level = .cycle) : step (setHost { s.ports.host with hSel := false } s) = step (setHost .idle s) :=
    step_setHost_silent ha hl ha.1 rfl
  refine ⟨fun hl => ?_, fun hl hs => ?_, fun hl hs => ?_⟩
  · have hT : stepT s = .next (hostRead s s.ports.host.hAddr s) := (if_pos hsel).trans (hostAccess_read s hsel hwe)
    rw [step_transaction ha hl, hT]
    simp only [onNext, hostRead, busy, bne_iff_ne, ne_eq, ite_not]
    exact congrArg Host.Outcome.next (showLine_transaction ((nextCycle_level _).trans hl))
  · obtain ⟨u, hu, -⟩ := step_setHost_idle_hostIdle ha hl hs
    refine ⟨u, (hquiet hl).trans hu, ?_⟩
    have hword : hostWord s s.ports.host.hAddr.toNat s.draws = mapWord s s.ports.host.hAddr.toNat :=
      hostWord_hostIdle _ _ hs
    simp only [hword]
    rw [step_eq_quiet_then ha hl hr (fun v => (hostAccess_read v hsel hwe).trans
      (congrArg _ (hostRead_hostIdle _ v hs))) (showLine_nextCycle_rdata _), hu]
    rfl
  · refine Eq.trans ?_ (congrArg (onNext · _) (hquiet hl).symm)
    rw [step_cycle ha hl hr, step_setHost_idle ha hl]
    cases agentsTick s with
    | next v =>
      simp only [onNext, hostAccess_read v hsel hwe, hostRead_busy _ v hs]
      refine congrArg Host.Outcome.next ((showLine_nextCycle_rdata_draws _ _ v).trans ?_)
      simp
    | fault x => rfl
    | refused x => rfl

/-! ### What the next step runs -/

/-- At Level T a host write other than an accepted one changes nothing. -/
theorem step_nothing_transaction {s : State} (ha : s.agentsMove) (hl : s.level = .transaction)
    (hsel : s.ports.host.hSel = true) (hacc : hostAccess s s = .next s) : step s = .next (nextCycle s) := by
  rw [step_transaction ha hl, stepT, if_pos hsel, hacc]
  exact congrArg Host.Outcome.next (showLine_transaction ((nextCycle_level _).trans hl))

/-- At Level T, with a silent host, ENGINE takes the head of CMD when it is free (R160). -/
theorem step_element_transaction {s : State} {e : Elem} {rest : List Elem} (ha : s.agentsMove)
    (hl : s.level = .transaction) (hsel : s.ports.host.hSel = false) (hfree : engineFree s = true)
    (hc : s.cmd = e :: rest) :
    step s = onNext (exec (decodeElem s.framing e) { s with cmd := rest }) fun t => .next (nextCycle t) := by
  have hT : stepT s = exec (decodeElem s.framing e) { s with cmd := rest } := by
    rw [stepT, hsel, if_neg Bool.false_ne_true, if_pos hfree, hc]
  rw [step_transaction ha hl, hT, exec_decodeElem_transaction (s := { s with cmd := rest }) hl hfree]
  refine congrArg Host.Outcome.next (showLine_transaction ((nextCycle_level _).trans ?_))
  exact (performElem_level e _).trans hl

/-- Where CONTROLLER makes a step it does not wait (R85, R206, R264). -/
theorem CtlStep.not_blocked {ex : Bool} {s t : State} {w : Option Framing}
    (h : CtlStep ex (s.dm.gapT == 0) (tickTimers s) w t) : controllerBlocked s = false := by
  have hblocked : ∀ q, (tickTimers s).seq = q → s.seq = q := fun _ => id
  unfold controllerBlocked
  cases h with
  | push p hq hroom =>
    rw [hblocked _ hq]
    have hlt : s.cmd.length < s.par.fifoDepth := of_decide_eq_true (Bool.not_eq_eq_eq_not.mp hroom)
    exact decide_eq_false (Nat.not_le.mpr hlt)
  | pop p r rest hq hr =>
    have hres : s.res = r :: rest := hr
    rw [hblocked _ hq, hres]
    rfl
  | pollGap hq hdone =>
    rw [hblocked _ hq]
    simpa using hdone
  | discoverStart hq | searchStart hq | searchExit hq | sampleStart hq | readAll hq | dev hq | sampleDone hq =>
    rw [hblocked _ hq]

theorem controllerC_blocked {s : State} (hw : s.ctlWait = 0) (hb : controllerBlocked s = true) :
    controllerC s = (none, tickTimers s) := by
  rw [controllerC, if_pos hw]
  cases hc : ctlStep (s.dm.pollT == 0) (s.dm.gapT == 0) (tickTimers s) with
  | none => rfl
  | some x =>
    rw [(ctlStep_cases hc).not_blocked] at hb
    cases hb

/-- A tick of Level C without a host access at which CONTROLLER waits: ENGINE makes its tick (R165, R329). -/
theorem step_waiting_cycle {s v : State} (ha : s.agentsMove) (hl : s.level = .cycle) (hsel : s.ports.host.hSel = false)
    (hctl : controllerC s = (none, v)) (hc : v.cmd = s.cmd) (hf : resFull v = resFull s) :
    step s = .next (showLine (nextCycle (engineAlone v))) := by
  have hr : reinitWritten s = false := reinitWritten_of_not_ctrl (by rw [ctrlWritten, hsel]; rfl)
  rw [step_cycle ha hl hr, agentsTick, hctl, engineAlone, hc, hf]
  simp only [onNext, hostAccess_unselected hsel]

/-- Settles O6: at Level T the first agent that can move does; at Level C a waiting CONTROLLER leaves the tick to
ENGINE. -/
theorem stepRunsTheHostCommandOrTheHeadElement : Obligations.StepRunsTheHostCommandOrTheHeadElement := by
  refine ⟨fun s i ha hl => ⟨fun hw hdec => ?_, fun hsel hwe haddr => ?_, fun e rest hsel hfree hc hdec => ?_⟩,
    fun s ha hl hsel => ⟨fun hw hb => ?_, fun hw => ?_⟩⟩
  · obtain rfl : decodeHost s.ports.host.hWdata = i := by
      rw [decode_host_natBytes] at hdec
      exact Except.ok.inj hdec
    refine ⟨fun hi => step_ctrlWrite_transaction ha hl hw hi, fun hs hne => ?_⟩
    refine step_nothing_transaction ha hl (ctrlWritten_iff.mp hw).1 ?_
    rw [hostAccess_ctrlWritten s hw, if_neg (not_or.mpr ⟨hs, by rwa [← decodeHost_ctrlOp]⟩)]
  · exact step_nothing_transaction ha hl hsel (hostAccess_otherWrite s hsel hwe haddr)
  · obtain rfl : decodeElem s.framing e = i := by
      rw [decode_eng_natBytes] at hdec
      exact Except.ok.inj hdec
    exact step_element_transaction ha hl hsel hfree hc
  · exact step_waiting_cycle ha hl hsel (controllerC_blocked hw hb) rfl rfl
  · exact step_waiting_cycle ha hl hsel (if_neg hw) rfl rfl

end Sys2Proof.Machine
end

section
/-! PROOFS. What a step of the agents can change in the core's own registers: the flags, the tables, FRAMING, the timers
(R39, R48 to R50, R321, R374). -/

namespace Sys2Proof.Machine

/-! ### The agents' part, ENGINE's and the channels' aside -/

/-- s after the timers' count of this step: at Level T they stand (notes/assumptions/12.md). -/
def counted (s : State) : State :=
  match s.level with
  | .transaction => s
  | .cycle => tickTimers s

theorem counted_eq (s : State) : ∃ p g, counted s = { s with dm := { s.dm with pollT := p, gapT := g } } := by
  unfold counted
  split
  · exact ⟨s.dm.pollT, s.dm.gapT, rfl⟩
  · exact ⟨_, _, rfl⟩

theorem counted_transaction {s : State} (hl : s.level = .transaction) : counted s = s := by
  unfold counted
  rw [hl]

theorem counted_cycle {s : State} (hl : s.level = .cycle) : counted s = tickTimers s := by
  unfold counted
  rw [hl]

/-- What CONTROLLER does in a step of the agents: nothing, or one step of its own with its SET_FRAMING; the timers count
first, unless REINIT is written. -/
inductive CoreMove (s : State) : State → Prop
  | stay (h : s.level = .transaction ∨ reinitWritten s = true) : CoreMove s s
  | count : CoreMove s (counted s)
  | control (ex gd : Bool) (w : Option Framing) (t : State) (h : CtlStep ex gd (counted s) w t)
      (hgap : s.level = .cycle → gd = true → s.dm.gapT = 0) : CoreMove s (reframed w t)

theorem loadLatency_eq (s : State) : ∃ n d, loadLatency s = { s with ctlWait := n, draws := d } := by
  unfold loadLatency
  split
  · exact ⟨_, s.draws, rfl⟩
  · exact ⟨_, _, rfl⟩

/-- The registers that neither ENGINE nor the channels touch are after the agents' part as CONTROLLER leaves them. -/
theorem AgentMove.core {s u : State} (h : AgentMove s u) :
    ∃ v, CoreMove s v ∧ ∃ g b d o c q n, u = { setChannels g b d o c q v with ctlWait := n } := by
  have hsame : ∀ v n d, ∃ g b d' o c q n', ({ v with ctlWait := n, draws := d } : State) =
      { setChannels g b d' o c q v with ctlWait := n' } :=
    fun v n d => ⟨v.eng, v.bus, d, v.ports.owIn, v.cmd, v.res, n, rfl⟩
  have htick : ∀ a b v n d, ∃ g b' d' o c q n', engineTick a b { v with ctlWait := n, draws := d } =
      { setChannels g b' d' o c q v with ctlWait := n' } := by
    intro a b v n d
    obtain ⟨g, b', d', o, c, q, ht, -⟩ := engineTick_change a b { v with ctlWait := n, draws := d }
    exact ⟨g, b', d', o, c, q, n, ht⟩
  cases h with
  | stay hs => exact ⟨s, .stay hs, hsame s s.ctlWait s.draws⟩
  | element e rest hl hc hfree =>
    obtain ⟨g, b, d, o, r, -, he⟩ := performElem_eq e { s with cmd := rest }
    exact ⟨s, .stay (.inl hl), g, b, d, o, rest, s.res ++ [r], s.ctlWait, he⟩
  | control w v hl hc =>
    refine ⟨_, .control _ _ w v ((counted_transaction hl).symm ▸ hc) (fun h => ?_), hsame _ _ (reframed w v).draws⟩
    rw [hl] at h
    cases h
  | wait n hl => exact ⟨_, counted_cycle hl ▸ .count, htick _ _ (tickTimers s) n s.draws⟩
  | tick v hl hc =>
    obtain ⟨n, d, hlat⟩ := loadLatency_eq v
    rw [hlat]
    exact ⟨v, .control _ _ none v ((counted_cycle hl).symm ▸ hc) (fun _ => eq_of_beq), htick _ _ v n d⟩
  | reframe w v hl hc =>
    obtain ⟨n, d, hlat⟩ := loadLatency_eq (engineReinit w v)
    rw [engineReinit_loadLatency, hlat]
    exact ⟨engineReinit w v, .control _ _ (some w) v ((counted_cycle hl).symm ▸ hc) (fun _ => eq_of_beq), hsame _ n d⟩

/-- In HOST_IDLE CONTROLLER makes no step. -/
theorem CtlStep.busy {ex gd : Bool} {s t : State} {w : Option Framing} (h : CtlStep ex gd s w t) : s.seq ≠ .hostIdle := by
  intro hs
  cases h <;> simp_all

theorem CoreMove.hostIdle {s v : State} (h : CoreMove s v) (hs : s.seq = .hostIdle) :
    ∃ p g, v = { s with dm := { s.dm with pollT := p, gapT := g } } ∧ (s.level = .transaction → v = s) := by
  obtain ⟨p, g, hcount⟩ := counted_eq s
  cases h with
  | stay => exact ⟨s.dm.pollT, s.dm.gapT, rfl, fun _ => rfl⟩
  | count => exact ⟨p, g, hcount, counted_transaction⟩
  | control ex gd w t h => exact absurd ((congrArg State.seq hcount).trans hs) h.busy

/-! ### The flags -/

theorem Flags.get_set (f : Flags) (x y : FaultFlag) : (f.set y).get x = (f.get x || decide (x = y)) := by
  cases x <;> cases y <;> simp [Flags.get, Flags.set]

/-- What follows a pop raises at most one flag and clears none (R320, R321). -/
theorem afterPop_flags (ex : Bool) (p : Place) (r : Byte) (s : State) :
    (afterPop ex p r s).flags = s.flags ∨ ∃ x, (afterPop ex p r s).flags = s.flags.set x := by
  have hraise : ∀ (c : Bool) (x : FaultFlag) (u : State), u.flags = s.flags →
      (raiseIf c x u).flags = s.flags ∨ ∃ y, (raiseIf c x u).flags = s.flags.set y := by
    intro c x u hu
    rw [raiseIf_flags, hu]
    cases c
    · exact .inl rfl
    · exact .inr ⟨x, rfl⟩
  cases p
  case passReset | sampleReset => exact hraise _ _ _ rfl
  case readB2 =>
    simp only [afterPop]
    split
    · exact .inr ⟨.searchFault, rfl⟩
    · exact .inl rfl
  case writeDir =>
    simp only [afterPop]
    split
    · exact .inl rfl
    · exact hraise _ _ _ rfl
  case pollRead =>
    simp only [afterPop]
    repeat' split
    · exact .inl rfl
    · exact .inr ⟨.pollTimeout, rfl⟩
    · exact .inl rfl
  case spByte =>
    simp only [afterPop]
    split
    · exact .inl rfl
    · exact hraise _ _ _ rfl
  all_goals exact .inl rfl

theorem reframed_flags (w : Option Framing) (s : State) : (reframed w s).flags = s.flags := by cases w <;> rfl

/-- CONTROLLER never clears a flag. -/
theorem CtlStep.flags_sticky {ex gd : Bool} {s t : State} {w : Option Framing} (h : CtlStep ex gd s w t) {x : FaultFlag}
    (hx : s.flags.get x = true) : t.flags.get x = true := by
  cases h with
  | pop p r rest hq hr =>
    obtain h | ⟨y, h⟩ := afterPop_flags ex p r { s with res := rest }
    · rw [h]
      exact hx
    · rw [h, Flags.get_set]
      exact Bool.or_eq_true_iff.mpr (.inl hx)
  | _ => exact hx

theorem CoreMove.flags_sticky {s v : State} (h : CoreMove s v) {x : FaultFlag} (hx : s.flags.get x = true) :
    v.flags.get x = true := by
  obtain ⟨p, g, hcount⟩ := counted_eq s
  cases h with
  | stay => exact hx
  | count => rwa [hcount]
  | control ex gd w t h =>
    rw [reframed_flags]
    exact h.flags_sticky (by rwa [hcount])

/-- The state after a step of the agents has the flags of the host's part. -/
theorem showLine_nextCycle_flags (s : State) : (showLine (nextCycle s)).flags = s.flags := by simp

/-- Settles O52: only the host's part clears a flag, and it clears all five. -/
theorem flagsAreStickyUntilCleared : Obligations.FlagsAreStickyUntilCleared := by
  intro s t ha h
  obtain ⟨u, v, hu, hv, rfl⟩ := step_agents ha h
  obtain ⟨c, hc, g, b, d, o, cmd, q, n, rfl⟩ := hu.core
  have hclear : ∀ x, Flags.clear.get x = false := fun x => by cases x <;> rfl
  rw [showLine_nextCycle_flags]
  cases hv with
  | nothing hno => exact ⟨fun _ x hx => hc.flags_sticky hx, fun hyes => by simp [hno] at hyes⟩
  | read hno => exact ⟨fun _ x hx => hc.flags_sticky hx, fun hyes => by simp [hno] at hyes⟩
  | reinit hw hop => exact ⟨fun hno => by simp [clearsFlags, hw, hop] at hno, fun _ => hclear⟩
  | accept q' hw hs hop =>
    obtain ⟨p, g', rfl, -⟩ := hc.hostIdle hs
    refine ⟨fun hno => ?_, fun _ => ?_⟩
    · obtain ⟨hop, -⟩ | ⟨hop, -⟩ := hop <;> simp [clearsFlags, hw, hs, hop] at hno
    · rw [acceptCommand_hostIdle q' (by exact hs)]
      exact hclear

/-! ### The idle core -/

/-- In a quiescent core in HOST_IDLE ENGINE finds CMD empty and stays (R166, R372). -/
theorem AgentMove.quiescent {s u : State} (h : AgentMove s u) (hs : s.seq = .hostIdle) (hq : quiescent s = true) :
    u.eng = s.eng ∧ u.cmd = [] ∧ u.res = [] ∧ u.bus = s.bus := by
  obtain ⟨hidle, hc, hr⟩ := (quiescent_iff s).mp hq
  cases h with
  | stay => exact ⟨rfl, hc, hr, rfl⟩
  | element e rest hl hcmd =>
    rw [hc] at hcmd
    cases hcmd
  | wait n hl =>
    rw [hc, List.isEmpty_nil, Bool.not_true, engineTick_idle _ { tickTimers s with ctlWait := n } hidle]
    exact ⟨rfl, hc, hr, rfl⟩
  | control w v hl h => exact absurd hs h.busy
  | tick v hl h => exact absurd hs h.busy
  | reframe w v hl h => exact absurd hs h.busy

/-- Settles O13: without a CTRL write CONTROLLER stays in HOST_IDLE, and the timers alone count. -/
theorem tablesAreStableWhileIdle : Obligations.TablesAreStableWhileIdle := by
  intro s t ha hs hw h
  obtain ⟨u, v, hu, hv, rfl⟩ := step_agents ha h
  have hquiet := hu.quiescent hs
  obtain ⟨c, hc, g, b, d, o, cmd, q, n, rfl⟩ := hu.core
  obtain ⟨pt, gt, rfl, hT⟩ := hc.hostIdle hs
  obtain ⟨f, q', d', p', rfl, hkeep⟩ := hv.frame fun h => by simp [hw] at h
  obtain ⟨rfl, rfl⟩ := hkeep (.inr hw)
  have hdm (hl : s.level = .transaction) : ({ s.dm with pollT := pt, gapT := gt } : DevMan) = s.dm :=
    congrArg State.dm (hT hl)
  simp only [showLine_seq, nextCycle_seq, showLine_rom, nextCycle_rom, showLine_romCount, nextCycle_romCount,
    showLine_rdg, nextCycle_rdg, showLine_rdgCount, nextCycle_rdgCount, showLine_flags, nextCycle_flags,
    showLine_presence, nextCycle_presence, showLine_rs, nextCycle_rs, showLine_framing, nextCycle_framing, showLine_dm,
    nextCycle_dm, showLine_eng, nextCycle_eng, showLine_cmd, nextCycle_cmd, showLine_res, nextCycle_res, showLine_bus,
    nextCycle_bus]
  exact ⟨hs, rfl, rfl, rfl, rfl, rfl, rfl, rfl, rfl, rfl, hdm, hquiet⟩

/-! ### The ROM table and FRAMING -/

/-- What follows a pop leaves the ROM table, but at the end of a pass (R241). -/
theorem afterPop_rom (ex : Bool) (p : Place) (r : Byte) (s : State) :
    ((afterPop ex p r s).rom = s.rom ∧ (afterPop ex p r s).romCount = s.romCount) ∨
    (p = .writeDir ∧ 64 ≤ (s.rs.i + 1).toNat ∧
      (afterPop ex p r s).rom = s.rom.set s.romCount.toNat (afterPop ex p r s).rs.rom ∧
      (afterPop ex p r s).romCount = s.romCount + 1) := by
  cases p
  case writeDir =>
    simp only [afterPop]
    split
    · exact .inl ⟨rfl, rfl⟩
    · exact .inr ⟨trivial, by omega, rfl, rfl⟩
  case readB2 | pollRead | spByte =>
    refine .inl ⟨?_, ?_⟩
    all_goals
      unfold afterPop
      dsimp only
      repeat' split
      all_goals rfl
  all_goals exact .inl ⟨rfl, rfl⟩

/-- The three places at which CONTROLLER changes the ROM table or its count (R49, R50, R230, R241, R260). -/
theorem CtlStep.rom {ex gd : Bool} {s t : State} {w : Option Framing} (h : CtlStep ex gd s w t) :
    (t.rom = s.rom ∧ t.romCount = s.romCount) ∨
    ((s.seq = .discoverStart ∨ s.seq = .searchStart) ∧ t.rom = s.rom ∧ t.romCount = 0) ∨
    (s.seq = .pop .writeDir ∧ 64 ≤ (s.rs.i + 1).toNat ∧ t.rom = s.rom.set s.romCount.toNat t.rs.rom ∧
      t.romCount = s.romCount + 1) := by
  cases h with
  | discoverStart hq => exact .inr (.inl ⟨.inl hq, rfl, rfl⟩)
  | searchStart hq => exact .inr (.inl ⟨.inr hq, rfl, rfl⟩)
  | pop p r rest hq hr =>
    obtain h | ⟨rfl, h⟩ := afterPop_rom ex p r { s with res := rest }
    · exact .inl h
    · exact .inr (.inr ⟨hq, h⟩)
  | _ => exact .inl ⟨rfl, rfl⟩

/-- The three places with a SET_FRAMING (R233, R235, R243). -/
theorem CtlStep.setFraming {ex gd : Bool} {s t : State} {w : Framing} (h : CtlStep ex gd s (some w) t) :
    (s.seq = .pop .searchCmd ∧ w = .w1) ∨
    (((s.seq = .pop .readB2 ∧ s.rs.b1 = true ∧ t.flags.searchFault = true) ∨
      (s.seq = .pop .writeDir ∧ 64 ≤ (s.rs.i + 1).toNat)) ∧ w = .w8) := by
  generalize hw : some w = o at h
  cases h with
  | pop p r rest hq hr =>
    cases p with
    | searchCmd => exact .inl ⟨hq, Option.some.inj hw⟩
    | readB2 =>
      simp only [popFraming] at hw
      split at hw
      · next hb =>
        refine .inr ⟨.inl ⟨hq, (Bool.and_eq_true_iff.mp hb).1, ?_⟩, Option.some.inj hw⟩
        simp only [afterPop, if_pos hb]
        rfl
      · cases hw
    | writeDir =>
      simp only [popFraming] at hw
      split at hw
      · cases hw
      · exact .inr ⟨.inr ⟨hq, by omega⟩, Option.some.inj hw⟩
    | _ => cases hw
  | _ => cases hw

theorem CoreMove.rom {s v : State} (h : CoreMove s v) :
    (v.rom = s.rom ∧ v.romCount = s.romCount) ∨
    ((s.seq = .discoverStart ∨ s.seq = .searchStart) ∧ v.rom = s.rom ∧ v.romCount = 0) ∨
    (s.seq = .pop .writeDir ∧ 64 ≤ (s.rs.i + 1).toNat ∧ v.rom = s.rom.set s.romCount.toNat v.rs.rom ∧
      v.romCount = s.romCount + 1) := by
  obtain ⟨p, g, hcount⟩ := counted_eq s
  cases h with
  | stay => exact .inl ⟨rfl, rfl⟩
  | count => exact .inl (hcount ▸ ⟨rfl, rfl⟩)
  | control ex gd w t h =>
    rw [hcount] at h
    cases w with
    | none => exact h.rom
    | some w => exact h.rom

theorem CoreMove.framing {s v : State} (h : CoreMove s v) :
    v.framing = s.framing ∨ (s.seq = .pop .searchCmd ∧ v.framing = .w1) ∨
    (((s.seq = .pop .readB2 ∧ s.rs.b1 = true ∧ v.flags.searchFault = true) ∨
      (s.seq = .pop .writeDir ∧ 64 ≤ (s.rs.i + 1).toNat)) ∧ v.framing = .w8) := by
  obtain ⟨p, g, hcount⟩ := counted_eq s
  cases h with
  | stay => exact .inl rfl
  | count => exact .inl (hcount ▸ rfl)
  | control ex gd w t h =>
    rw [hcount] at h
    cases w with
    | none => exact .inl (ctlStep_outside (ctlStep_of h)).1.framing
    | some w => exact .inr h.setFraming

/-- Without REINIT the host's part writes no register but the flags, which an accepted command clears, and `CTL.seq`. -/
theorem step_agents_core {s t : State} (ha : s.agentsMove) (hr : ctrlWritten s = true → ctrlOp s ≠ 3)
    (h : step s = .next t) :
    ∃ c, CoreMove s c ∧ t.rom = c.rom ∧ t.romCount = c.romCount ∧ t.rs = c.rs ∧ t.framing = c.framing ∧ t.dm = c.dm ∧
      (s.seq ≠ .hostIdle → t.flags = c.flags) := by
  obtain ⟨u, v, hu, hv, rfl⟩ := step_agents ha h
  obtain ⟨c, hc, g, b, d, o, cmd, q, n, rfl⟩ := hu.core
  obtain ⟨f, q', d', p', rfl, hkeep⟩ := hv.frame hr
  refine ⟨c, hc, by simp, by simp, by simp, by simp, by simp, fun hs => ?_⟩
  rw [showLine_nextCycle_flags]
  exact (hkeep (.inl hs)).1

/-- Settles O53: CONTROLLER's step is the only one that writes the table or FRAMING. -/
theorem tableAndFramingChangeOnlyAtTheirPlaces : Obligations.TableAndFramingChangeOnlyAtTheirPlaces := by
  intro s t ha hr h
  obtain ⟨c, hc, hrom, hcount, hrs, hframe, -, hflags⟩ := step_agents_core ha hr h
  rw [hrom, hcount, hrs, hframe]
  refine ⟨hc.rom, hc.framing.imp_right (Or.imp_right fun ⟨hplace, hw⟩ => ⟨hplace.imp_left ?_, hw⟩)⟩
  rintro ⟨hq, hb, hf⟩
  exact ⟨hq, hb, by rwa [hflags (by simp [hq])]⟩

end Sys2Proof.Machine
end

section
/-! PROOFS. CONTROLLER's step at either level, place by place (R230 to R244, R260 to R275). -/

namespace Sys2Proof.Machine

/-! ### A push or a pop at either level -/

/-- s with other values in the two timers: CONTROLLER's step at Level C starts from such a state. -/
def withTimers (p : BitVec 20) (g : BitVec 14) (s : State) : State :=
  { s with dm := { s.dm with pollT := p, gapT := g } }

theorem eq_withTimers {s u : State} (h : u = s ∨ u = tickTimers s) : ∃ p g, u = withTimers p g s := by
  obtain rfl | rfl := h
  · exact ⟨u.dm.pollT, u.dm.gapT, rfl⟩
  · exact ⟨_, _, rfl⟩

/-- `moved` applies its function to s, at Level C with the timers counted. -/
theorem moved_congr {f g : State → State} {s : State} (h : ∀ p t, f (withTimers p t s) = g (withTimers p t s)) :
    moved f s = moved g s := by
  have hT : f s = g s := h s.dm.pollT s.dm.gapT
  have hC : f (tickTimers s) = g (tickTimers s) := h _ _
  unfold moved
  rw [hT, hC]

theorem controllerMoves_cmd {s : State} (hs : s.controllerMoves) : s.cmd = [] := by
  obtain ⟨-, -, -, hc⟩ | ⟨-, -, -, hc, -⟩ := hs <;> exact hc

theorem controllerMoves_delivered {s : State} (hs : s.controllerMoves) : s.eng.phase.delivered = true := by
  obtain ⟨-, -, he, -⟩ | ⟨-, -, he, -⟩ := hs
  · exact delivered_iff.mpr (.inl he)
  · exact he

theorem placeElem_withTimers (p : Place) (a : BitVec 20) (b : BitVec 14) (s : State) :
    placeElem p (withTimers a b s) = placeElem p s := by
  cases p <;> rfl

theorem popFraming_withTimers (p : Place) (r : Byte) (a : BitVec 20) (b : BitVec 14) (s : State) (q : List Byte) :
    popFraming p r { withTimers a b s with res := q } = popFraming p r s := by
  cases p <;> rfl

/-- CONTROLLER's push at either level (R206). -/
theorem step_push {s : State} {p : Place} (hs : s.controllerMoves) (hd : 0 < s.par.fifoDepth) (hq : s.seq = .push p) :
    step s = .next (moved (fun u => { u with cmd := [placeElem p s], seq := .pop p }) s) := by
  refine step_moved (fun u => { u with cmd := [placeElem p s], seq := .pop p }) none hs (fun ex gd u hu _ _ => ?_)
    fun h => absurd rfl h
  obtain ⟨a, b, rfl⟩ := eq_withTimers hu
  have hc : (withTimers a b s).cmd = [] := controllerMoves_cmd hs
  have hroom : cmdFull (withTimers a b s) = false := by
    rw [cmdFull, hc, decide_eq_true (by exact hd)]
    rfl
  rw [ctlStep_of (.push (s := withTimers a b s) p hq hroom), pushCmd, hc, placeElem_withTimers]
  rfl

/-- CONTROLLER's pop at either level: what follows it, with its SET_FRAMING, which needs ENGINE in IDLE (R206, R373). The
function g says it of the state from which the step starts. -/
theorem step_pop {s : State} {p : Place} {r : Byte} {w : Option Framing} {g : State → State} (hs : s.controllerMoves)
    (hq : s.seq = .pop p) (hr : s.res = [r]) (hw : popFraming p r s = w) (hidle : w ≠ none → s.eng.phase = .idle)
    (hg : ∀ a b, reframed w (afterPop (budgetSpent s) p r { withTimers a b s with res := [] }) = g (withTimers a b s)) :
    step s = .next (moved g s) := by
  have hstep := step_moved (fun u => afterPop (budgetSpent s) p r { u with res := [] }) w hs (fun ex gd u hu hT hC => ?_)
    fun h => ⟨hidle h, fun u hu => ?_⟩
  · rw [hstep]
    refine congrArg Host.Outcome.next (moved_congr fun a b => (Eq.trans ?_ (hg a b)))
    cases w <;> rfl
  · obtain ⟨a, b, rfl⟩ := eq_withTimers hu
    have hex : ex = budgetSpent s := by
      unfold budgetSpent
      cases hl : s.level
      · exact (hT hl).1
      · exact (hC hl).1
    rw [ctlStep_of (.pop (s := withTimers a b s) p r [] hq hr), popFraming_withTimers, hw, hex]
  · obtain ⟨-, hc, hres⟩ := afterPop_outside (budgetSpent s) p r { u with res := [] }
    refine ⟨hc.trans ?_, hres⟩
    obtain ⟨a, b, rfl⟩ := eq_withTimers hu
    exact controllerMoves_cmd hs

/-- A pop without a SET_FRAMING. -/
theorem step_pop_none {s : State} {p : Place} {r : Byte} {g : State → State} (hs : s.controllerMoves)
    (hq : s.seq = .pop p) (hr : s.res = [r]) (hw : popFraming p r s = none)
    (hg : ∀ a b, afterPop (budgetSpent s) p r { withTimers a b s with res := [] } = g (withTimers a b s)) :
    step s = .next (moved g s) :=
  step_pop hs hq hr hw (fun h => absurd rfl h) hg

/-- A pop with a SET_FRAMING. -/
theorem step_pop_reframe {s : State} {p : Place} {r : Byte} {w : Framing} {g : State → State} (hs : s.controllerMoves)
    (hq : s.seq = .pop p) (hr : s.res = [r]) (hw : popFraming p r s = some w) (hidle : s.eng.phase = .idle)
    (hg : ∀ a b, { afterPop (budgetSpent s) p r { withTimers a b s with res := [] } with framing := w, eng := .reset } =
      g (withTimers a b s)) :
    step s = .next (moved g s) := by
  refine step_pop hs hq hr hw (fun _ => hidle) fun a b => Eq.trans ?_ (hg a b)
  obtain ⟨-, hc, hres⟩ := afterPop_outside (budgetSpent s) p r { withTimers a b s with res := [] }
  exact engineReinit_empty (hc.trans (controllerMoves_cmd hs)) hres

/-! ### The search -/

/-- Settles O36: it is the step from DISCOVER_START through SEARCH_START to PASS. -/
theorem discoverStartsAfresh : Obligations.DiscoverStartsAfresh := by
  intro s hs hq
  refine step_moved _ none hs (fun ex gd u hu _ _ => ?_) fun h => absurd rfl h
  obtain ⟨a, b, rfl⟩ := eq_withTimers hu
  exact ctlStep_of (.discoverStart hq)

/-- Settles O37: each place's pop, with the level of the RESET decided. -/
theorem passResetDecides : Obligations.PassResetDecides := by
  intro s r hs hr
  refine ⟨fun hq hlow => ?_, fun hq hhigh => ?_, fun hq hidle => ?_⟩
  · refine step_pop_none hs hq hr rfl fun a b => ?_
    simp only [afterPop, raiseIf, setPresence, hlow]
    rfl
  · refine step_pop_none hs hq hr rfl fun a b => ?_
    simp only [afterPop, raiseIf, setPresence, hhigh]
    rfl
  · exact step_pop_reframe hs hq hr rfl hidle fun a b => rfl

/-- Settles O38: the branch of the second bit that raises SearchFault. -/
theorem pairOneOneAbortsTheSearch : Obligations.PairOneOneAbortsTheSearch := by
  intro s r hs hq hr hb hbit hidle
  have hboth : (s.rs.b1 && r.getLsbD 0) = true := by rw [hb, hbit]; rfl
  refine step_pop_reframe hs hq hr (if_pos hboth) hidle fun a b => ?_
  have hpop : afterPop (budgetSpent s) .readB2 r { withTimers a b s with res := [] } =
      raiseFault .searchFault { withTimers a b s with
        res := [], rs := { s.rs with b2 := r.getLsbD 0 }, seq := .hostIdle } := if_pos hboth
  rw [hpop, hbit]
  rfl

/-- The direction at a collision by the carried marker (R237). -/
theorem collisionDir_eq {rs : Search} {dir : Bool}
    (h : match rs.last with
      | none => dir = false
      | some m => if rs.i.toNat = m.toNat then dir = true else if m.toNat < rs.i.toNat then dir = false
        else dir = rs.rom.getLsbD rs.i.toNat) : collisionDir rs = dir := by
  have hnone : markerValue none = -1 := rfl
  have hsome : ∀ m, markerValue (some m) = (m.toNat : Int) := fun _ => rfl
  unfold collisionDir
  cases hl : rs.last with
  | none =>
    rw [hl] at h
    rw [hnone, if_neg (by omega), if_pos (by omega)]
    exact h.symm
  | some m =>
    rw [hl] at h
    simp only [hsome, Int.ofNat_inj, Int.ofNat_lt] at h ⊢
    split_ifs at h ⊢ <;> exact h.symm

/-- Settles O39: the second bit's pop is `chooseDir`, decided by the pair and by the carried marker. -/
theorem pairDecidesTheDirection : Obligations.PairDecidesTheDirection := by
  intro s r hs hr
  refine ⟨fun hq => ?_, fun hq hne => ?_, fun dir hq hb hbit hi hdir => ?_⟩
  · exact step_pop_none hs hq hr rfl fun a b => rfl
  · have hboth : (s.rs.b1 && r.getLsbD 0) ≠ true := by
      intro h
      obtain ⟨h1, h2⟩ := Bool.and_eq_true_iff.mp h
      exact hne (h1.trans h2.symm)
    refine step_pop_none hs hq hr (if_neg hboth) fun a b => (if_neg hboth).trans ?_
    simp only [chooseDir]
    rw [if_pos (by exact hne)]
    rfl
  · have hboth : (s.rs.b1 && r.getLsbD 0) ≠ true := by simp [hb]
    refine step_pop_none hs hq hr (if_neg hboth) fun a b => (if_neg hboth).trans ?_
    have hchoose : chooseDir { s.rs with b2 := r.getLsbD 0 } =
        { s.rs with b2 := false, dir := dir, new := if dir then s.rs.new else some (BitVec.ofNat 6 s.rs.i.toNat) } := by
      have hcol : collisionDir { s.rs with b2 := r.getLsbD 0 } = dir := collisionDir_eq hdir
      unfold chooseDir
      rw [if_neg (not_not.mpr (hb.trans hbit.symm)), hcol, hbit]
      cases dir <;> rfl
    exact congrArg (fun v => { withTimers a b s with res := [], rs := v, seq := .push .writeDir }) hchoose

/-- What `moved` leaves of its function's result: all but ENGINE's registers, the latency, the draws and `ow_in`. -/
theorem moved_eq {f : State → State} {s : State} (hs : s.controllerMoves)
    (heng : ∀ a b, (f (withTimers a b s)).eng.phase.delivered = true) :
    ∃ a b g n d o, moved f s =
      { f (withTimers a b s) with
        eng := g, ctlWait := n, draws := d, ports := { (f (withTimers a b s)).ports with owIn := o } } := by
  obtain ⟨hl, -⟩ | ⟨hl, -⟩ := hs
  · rw [moved_transaction _ hl]
    exact ⟨s.dm.pollT, s.dm.gapT, _, _, _, (f s).ports.owIn, rfl⟩
  · rw [moved_cycle _ hl]
    obtain ⟨a, b, ht⟩ := eq_withTimers (s := s) (.inr rfl)
    obtain ⟨n, d, hlat⟩ := loadLatency_eq (f (tickTimers s))
    obtain ⟨-, g, htick⟩ := engineTick_delivered false (loadLatency (f (tickTimers s)))
      (by rw [loadLatency_eng, ht]; exact heng a b)
    obtain ⟨o, ho⟩ := showLine_eq (engineTick false false (loadLatency (f (tickTimers s))))
    rw [ho, htick, hlat, ht]
    exact ⟨a, b, g, n, d, o, rfl⟩

theorem step_moved_eq {f : State → State} {s : State} (hs : s.controllerMoves) (hstep : step s = .next (moved f s))
    (heng : ∀ a b, (f (withTimers a b s)).eng.phase.delivered = true) :
    ∃ a b g n d o, step s = .next { f (withTimers a b s) with
      eng := g, ctlWait := n, draws := d, ports := { (f (withTimers a b s)).ports with owIn := o } } := by
  obtain ⟨a, b, g, n, d, o, hm⟩ := moved_eq hs heng
  exact ⟨a, b, g, n, d, o, hstep.trans (congrArg _ hm)⟩

/-- The direction becomes bit i of the code and no other bit changes (R240). -/
theorem takeDir_getLsbD {rs : Search} (hi : rs.i.toNat < 64) {n : Nat} :
    (takeDir rs).rom.getLsbD n = if n = rs.i.toNat then rs.dir else rs.rom.getLsbD n :=
  getLsbD_setBit rs.rom hi rs.dir n

theorem recordPass_seq (s : State) : (recordPass s).seq = .push .passReset ∨ (recordPass s).seq = .hostIdle := by
  obtain ⟨-, h⟩ | ⟨-, -, h⟩ | ⟨-, -, h⟩ := recordPass_cases s <;> rw [h]
  · exact .inr rfl
  · exact .inl rfl
  · exact .inr rfl

/-- What follows the pop of a written direction, before position 63 and at it (R240, R241). -/
theorem afterPop_writeDir_lt {ex : Bool} {r : Byte} {s : State} (hi : s.rs.i.toNat < 63) :
    afterPop ex .writeDir r s = { s with rs := takeDir s.rs, seq := .push .readB1 } := by
  have hsucc := toNat_succ7 (v := s.rs.i) (by omega)
  exact if_pos (by omega)

theorem afterPop_writeDir_last {ex : Bool} {r : Byte} {s : State} (hi : s.rs.i.toNat = 63) :
    afterPop ex .writeDir r s = recordPass { s with rs := takeDir s.rs } := by
  have hsucc := toNat_succ7 (v := s.rs.i) (by omega)
  exact if_neg (by omega)

theorem popFraming_writeDir {r : Byte} {s : State} (hi : s.rs.i.toNat < 64) :
    popFraming .writeDir r s = if s.rs.i.toNat < 63 then none else some .w8 := by
  have hsucc := toNat_succ7 (v := s.rs.i) hi
  simp only [popFraming, hsucc, show s.rs.i.toNat + 1 < 64 ↔ s.rs.i.toNat < 63 by omega]

/-- Settles O40: `takeDir` writes one bit, and 64 positions make a pass. -/
theorem directionIsWrittenAndRecorded : Obligations.DirectionIsWrittenAndRecorded := by
  intro s hs hd
  refine ⟨fun hq => step_push hs hd hq, fun r hq hr hi hidle => ?_⟩
  refine ⟨(takeDir s.rs).rom, ?_⟩
  have hbits : ∀ n, n < 64 → (takeDir s.rs).rom.getLsbD n = if n = s.rs.i.toNat then s.rs.dir else s.rs.rom.getLsbD n :=
    fun n _ => takeDir_getLsbD hi
  have hsucc := toNat_succ7 hi
  have hw := popFraming_writeDir (r := r) hi
  by_cases hlast : s.rs.i.toNat < 63
  · rw [if_pos hlast] at hw
    have hstep := step_pop_none (g := fun u => { u with
      res := [], rs := takeDir s.rs, seq := .push .readB1 }) hs hq hr hw fun a b => afterPop_writeDir_lt hlast
    obtain ⟨a, b, g, n, d, o, hm⟩ := moved_eq (f := fun u => { u with
      res := [], rs := takeDir s.rs, seq := .push .readB1 }) hs fun _ _ => controllerMoves_delivered hs
    exact ⟨_, hbits, hstep, by rw [hm], by rw [hm]; exact hsucc, fun _ => rfl, fun h => by omega⟩
  · rw [if_neg hlast] at hw
    have hstep := step_pop_reframe (g := fun u => { recordPass { u with res := [], rs := takeDir s.rs } with
      framing := .w8, eng := .reset }) hs hq hr hw (hidle (by omega))
      fun a b => by rw [afterPop_writeDir_last (by show s.rs.i.toNat = 63; omega)]; rfl
    obtain ⟨a, b, g, n, d, o, hm⟩ := moved_eq (f := fun u => { recordPass { u with res := [], rs := takeDir s.rs } with
      framing := .w8, eng := .reset }) hs fun a b => rfl
    refine ⟨_, hbits, hstep, by rw [hm]; rfl, by rw [hm]; exact hsucc, fun h => absurd h hlast, fun _ => ?_⟩
    rw [hm]
    exact recordPass_seq _

/-- Settles O41: the end of a pass is `recordPass`, whose three cases are those of the marker and the room left. -/
theorem endOfPassRecordsAndDecides : Obligations.EndOfPassRecordsAndDecides := by
  intro s r hs hr hwf hq hi hidle
  have hi' : s.rs.i.toNat = 63 := by rw [hi]; rfl
  have hroom : s.romCount.toNat < s.par.nMax := by
    have hplace := (wf_iff.mp hwf).2.2
    rw [hq] at hplace
    exact hplace.1 rfl
  have hn : s.par.nMax ≤ 64 := hwf.1.2.2.1.2
  have hsucc := toNat_succ7 (v := s.romCount) (by omega)
  have hcount : s.romCount + 1 = BitVec.ofNat 7 (s.romCount.toNat + 1) :=
    BitVec.eq_of_toNat_eq (by rw [hsucc, BitVec.toNat_ofNat, Nat.mod_eq_of_lt (by omega)])
  have hpos : s.rs.i + 1 = 64 := by rw [hi]; rfl
  have hw := popFraming_writeDir (r := r) (show s.rs.i.toNat < 64 by omega)
  rw [if_neg (by omega)] at hw
  have hfull : tableFull s = (s.rs.new.isSome && decide (s.romCount.toNat + 1 = s.par.nMax)) := by
    rw [tableFull, hsucc, beq_eq_decide]
  refine ⟨(takeDir s.rs).rom, if s.rs.new.isSome && !tableFull s then s.rs.new else s.rs.last,
    if tableFull s then s.flags.set .tableFull else s.flags,
    if s.rs.new.isSome && !tableFull s then .push .passReset else .hostIdle, ?_, ?_, ?_, ?_, ?_⟩
  · intro n _
    rw [takeDir_getLsbD (by omega), hi']
  · refine step_pop_reframe hs hq hr hw hidle fun a b => ?_
    have hpop : afterPop (budgetSpent s) .writeDir r { withTimers a b s with res := [] } =
        recordPass { withTimers a b s with res := [], rs := takeDir s.rs } := afterPop_writeDir_last hi'
    rw [hpop, ← hcount, ← hpos]
    rfl
  · intro hnew
    simp [hfull, hnew]
  · intro hnew hlt
    simp [hfull, Option.isSome_iff_ne_none.mpr hnew, hlt.ne]
  · intro hnew heq
    simp [hfull, Option.isSome_iff_ne_none.mpr hnew, heq, Flags.set]

end Sys2Proof.Machine
end

section
/-! PROOFS. SAMPLE_ALL at either level, place by place (R48, R261 to R275). -/

namespace Sys2Proof.Machine

/-! ### The RESETs -/

/-- Settles O42: the start and the two RESET places, with the level of the first one decided. -/
theorem sampleAllResets : Obligations.SampleAllResets := by
  refine ⟨fun s hs hq => ?_, fun s r hs hr => ⟨fun hq hhigh => ?_, fun hq hlow => ?_, fun hq => ?_⟩⟩
  · refine step_moved _ none hs (fun ex gd u hu _ _ => ?_) fun h => absurd rfl h
    obtain ⟨a, b, rfl⟩ := eq_withTimers hu
    exact ctlStep_of (.sampleStart hq)
  · refine step_pop_none hs hq hr rfl fun a b => ?_
    simp only [afterPop, raiseIf, setPresence, hhigh]
    rfl
  · refine step_pop_none hs hq hr rfl fun a b => ?_
    simp only [afterPop, raiseIf, setPresence, hlow]
    rfl
  · exact step_pop_none hs hq hr rfl fun a b => rfl

/-! ### The completion poll -/

/-- The byte that ends the poll passes READ_ALL and DEV (R265, R266). -/
theorem step_pollEnd {s : State} {r : Byte} (hs : s.controllerMoves) (hr : s.res = [r]) (hq : s.seq = .pop .pollRead)
    (hend : r = 0xFF#8 ∨ budgetSpent s = true) :
    step s = .next (moved (fun u => { u with
      res := []
      dm := { u.dm with k := 0 }
      flags := if r = 0xFF#8 then u.flags else { u.flags with pollTimeout := true }
      rdgCount := if s.romCount = 0 then 0 else s.rdgCount
      seq := if s.romCount = 0 then .hostIdle else .push .devReset }) s) := by
  have hcount : (0 = s.romCount) = (s.romCount = 0) := propext eq_comm
  have hrdg : (if s.romCount = 0 then s.romCount else s.rdgCount) = if s.romCount = 0 then 0 else s.rdgCount := by
    split
    · assumption
    · rfl
  refine step_pop_none hs hq hr rfl fun a b => ?_
  by_cases hff : r = 0xFF#8
  · simp only [afterPop, if_pos hff, atReadAll, atDev]
    simp only [withTimers, hcount, hrdg]
  · simp only [afterPop, if_neg hff, if_pos (hend.resolve_left hff), atReadAll, atDev, raiseFault, Flags.set]
    simp only [withTimers, hcount, hrdg]

/-- A byte that does not end it loads the gap timer (R264). -/
theorem step_pollGoesOn {s : State} {r : Byte} (hs : s.controllerMoves) (hr : s.res = [r]) (hq : s.seq = .pop .pollRead)
    (hff : r ≠ 0xFF#8) (hleft : budgetSpent s = false) :
    step s = .next (moved (fun u => { u with
      res := []
      dm := { u.dm with gapT := BitVec.ofNat 14 s.par.tPollGap }
      pollReads := s.pollReads + 1
      seq := .pollGap }) s) := by
  refine step_pop_none hs hq hr rfl fun a b => ?_
  simp only [afterPop, if_neg hff, hleft]
  rfl

/-- CONTROLLER leaves the gap when it is over, at Level T at once (R264; notes/assumptions/12.md). -/
theorem step_pollGap {s : State} (hs : s.controllerMoves) (hq : s.seq = .pollGap)
    (hdone : s.level = .transaction ∨ s.dm.gapT = 0) :
    step s = .next (moved (fun u => { u with dm := { u.dm with gapT := 0 }, seq := .push .pollRead }) s) := by
  refine step_moved _ none hs (fun ex gd u hu hT hC => ?_) fun h => absurd rfl h
  obtain ⟨a, b, rfl⟩ := eq_withTimers hu
  refine ctlStep_of (.pollGap hq ?_)
  cases hl : s.level
  · exact (hT hl).2
  · rw [(hC hl).2, beq_iff_eq]
    exact hdone.resolve_left (by simp [hl])

/-- While the gap is not over CONTROLLER waits (R264). -/
theorem step_pollGap_waits {s : State} (hs : s.controllerMoves) (hl : s.level = .cycle) (hq : s.seq = .pollGap)
    (hgap : s.dm.gapT ≠ 0) : step s = .next (showLine (engineAlone (tickTimers s))) := by
  obtain ⟨hT, -⟩ | ⟨-, ⟨hh, hi, hiss⟩, -, -, hw⟩ := hs
  · rw [hl] at hT
    cases hT
  · have hsilent : s.agentsMove ∧ s.ports.host.hSel = false := by
      rw [State.agentsMove, hh]
      exact ⟨⟨rfl, hiss⟩, rfl⟩
    have hb : controllerBlocked s = true := by
      rw [controllerBlocked, hq]
      exact bne_iff_ne.mpr hgap
    rw [step_waiting_cycle hsilent.1 hl hsilent.2 (controllerC_blocked hw hb) rfl rfl]
    obtain ⟨g, b, d, o, c, q, ht, -⟩ :=
      engineTick_change (!(tickTimers s).cmd.isEmpty) (!resFull (tickTimers s)) (tickTimers s)
    rw [engineAlone, ht, nextCycle_quiet _ (by exact hi) (by exact hh)]

/-! ### The timers at Level C -/

/-- Counting down stops at 0. -/
theorem toNat_countDown {w : Nat} (hw : 0 < w) (v : BitVec w) : (if v = 0 then 0 else v - 1).toNat = v.toNat - 1 := by
  split
  · next h => rw [h]; simp
  · next h =>
    have hone : (1 : BitVec w).toNat = 1 := BitVec.toNat_one hw
    have hle : (1 : BitVec w) ≤ v := by
      rw [BitVec.le_def, hone, Nat.one_le_iff_ne_zero]
      exact fun h0 => h (BitVec.eq_of_toNat_eq (by simpa using h0))
    rw [BitVec.toNat_sub_of_le hle, hone]

/-- What follows a pop writes a timer at its one place only (R48, R264). -/
theorem afterPop_timers (ex : Bool) (p : Place) (r : Byte) (s : State) :
    ((afterPop ex p r s).dm.pollT = s.dm.pollT ∨
      p = .startConv ∧ (afterPop ex p r s).dm.pollT = BitVec.ofNat 20 s.par.tPollBudget) ∧
    ((afterPop ex p r s).dm.gapT = s.dm.gapT ∨
      p = .pollRead ∧ (afterPop ex p r s).dm.gapT = BitVec.ofNat 14 s.par.tPollGap) := by
  cases p
  case startConv => exact ⟨.inr ⟨rfl, rfl⟩, .inl rfl⟩
  case pollRead =>
    by_cases hff : r = 0xFF#8
    · simp only [afterPop, if_pos hff]
      exact ⟨.inl rfl, .inl rfl⟩
    · cases ex
      · simp only [afterPop, if_neg hff]
        exact ⟨.inl rfl, .inr ⟨trivial, rfl⟩⟩
      · simp only [afterPop, if_neg hff]
        exact ⟨.inl rfl, .inl rfl⟩
  case readB2 | writeDir | spByte =>
    unfold afterPop
    dsimp only
    constructor
    all_goals
      left
      split <;> rfl
  all_goals exact ⟨.inl rfl, .inl rfl⟩

/-- CONTROLLER's step writes the timers at their two places and, as it leaves the gap, the gap timer, which is 0 then. -/
theorem CtlStep.timers {ex gd : Bool} {s t : State} {w : Option Framing} (h : CtlStep ex gd s w t) :
    (t.dm.pollT = s.dm.pollT ∨ s.seq = .pop .startConv ∧ t.dm.pollT = BitVec.ofNat 20 s.par.tPollBudget) ∧
    (t.dm.gapT = s.dm.gapT ∨ (gd = true ∧ t.dm.gapT = 0) ∨
      s.seq = .pop .pollRead ∧ t.dm.gapT = BitVec.ofNat 14 s.par.tPollGap) := by
  cases h with
  | pop p r rest hq hr =>
    obtain ⟨hp, hg⟩ := afterPop_timers ex p r { s with res := rest }
    exact ⟨hp.imp_right fun ⟨h1, h2⟩ => ⟨hq.trans (congrArg _ h1), h2⟩,
      hg.imp_right fun ⟨h1, h2⟩ => .inr ⟨hq.trans (congrArg _ h1), h2⟩⟩
  | pollGap hq hdone => exact ⟨.inl rfl, .inr (.inl ⟨hdone, rfl⟩)⟩
  | _ => exact ⟨.inl rfl, .inl rfl⟩

/-- Over a tick of Level C each timer is loaded at its one place or counts one down. -/
theorem CoreMove.timers {s v : State} (hl : s.level = .cycle) (hr : reinitWritten s = false) (h : CoreMove s v) :
    (v.dm.pollT.toNat = s.dm.pollT.toNat - 1 ∨
      s.seq = .pop .startConv ∧ v.dm.pollT = BitVec.ofNat 20 s.par.tPollBudget) ∧
    (v.dm.gapT.toNat = s.dm.gapT.toNat - 1 ∨
      s.seq = .pop .pollRead ∧ v.dm.gapT = BitVec.ofNat 14 s.par.tPollGap) := by
  have hpoll : (tickTimers s).dm.pollT.toNat = s.dm.pollT.toNat - 1 := toNat_countDown (by decide) _
  have hgap : (tickTimers s).dm.gapT.toNat = s.dm.gapT.toNat - 1 := toNat_countDown (by decide) _
  have hcount := counted_cycle hl
  cases h with
  | stay h =>
    obtain h | h := h
    · rw [hl] at h
      cases h
    · rw [hr] at h
      cases h
  | count =>
    rw [hcount]
    exact ⟨.inl hpoll, .inl hgap⟩
  | control ex gd w t h hdone =>
    rw [hcount] at h
    have hdm : (reframed w t).dm = t.dm := by cases w <;> rfl
    obtain ⟨hp, hg⟩ := h.timers
    rw [hdm]
    refine ⟨hp.imp_left fun h => by rw [h, hpoll], ?_⟩
    obtain h | ⟨hd, h⟩ | h := hg
    · exact .inl (by rw [h, hgap])
    · exact .inl (by rw [h, hdone hl hd]; rfl)
    · exact .inr h

/-- Settles O43: the places before the poll, the three outcomes of a poll byte, the gap, and the timers at every tick. -/
theorem completionPollDecides : Obligations.CompletionPollDecides := by
  refine ⟨fun s r hs hr => ⟨fun hq => ?_, fun hq => ?_⟩, fun s r hs hq hr => ?_,
    fun s hs hq => ⟨step_pollGap hs hq, fun hl => step_pollGap_waits hs hl hq⟩, fun s t ha hl hr h => ?_⟩
  · exact step_pop_none hs hq hr rfl fun a b => rfl
  · exact step_pop_none hs hq hr rfl fun a b => rfl
  · by_cases hend : r = 0xFF#8 ∨ budgetSpent s = true
    · obtain ⟨a, b, g, n, d, o, h⟩ := step_moved_eq hs (step_pollEnd hs hr hq hend)
        fun _ _ => controllerMoves_delivered hs
      refine ⟨_, h, rfl,
        fun _ => ⟨rfl, fun hne => ⟨if_neg hne, if_neg hne⟩, fun h0 => ⟨if_pos h0, if_pos h0⟩⟩,
        fun hff => if_pos hff, fun hff _ => if_neg hff, fun hff hleft => ?_⟩
      rw [hend.resolve_left hff] at hleft
      cases hleft
    · obtain ⟨hff, hspent⟩ := not_or.mp hend
      have hstep := step_pollGoesOn hs hr hq hff (Bool.eq_false_iff.mpr hspent)
      obtain ⟨a, b, g, n, d, o, h⟩ := step_moved_eq hs hstep fun _ _ => controllerMoves_delivered hs
      exact ⟨_, h, rfl, fun h => absurd h hend, fun h => absurd h hff,
        fun _ h => absurd h hspent, fun _ _ => hstep⟩
  · obtain ⟨c, hc, -, -, -, -, hdm, -⟩ := step_agents_core ha hr h
    rw [hdm]
    refine hc.timers hl (Bool.eq_false_iff.mpr fun h => ?_)
    obtain ⟨hw, hop⟩ := reinitWritten_iff.mp h
    exact hr hw hop

/-! ### The device loop -/

/-- The end of a device's read, written out (R266, R270, R271, R274, R275). -/
theorem recordReading_eq (s : State) : recordReading s = { s with
    dm := { s.dm with crc := crc8 s.dm.sp, k := s.dm.k + 1 }
    rdg := s.rdg.set s.dm.k.toNat (readingOf s.dm.sp)
    rdgCount := if s.dm.k + 1 = s.romCount then s.romCount else s.rdgCount
    flags := if crc8 s.dm.sp = 0#8 then s.flags else { s.flags with crcMismatch := true }
    seq := if s.dm.k + 1 = s.romCount then .hostIdle else .push .devReset } := by
  have hflags : (if (crc8 s.dm.sp != 0#8) = true then s.flags.set .crcMismatch else s.flags) =
      if crc8 s.dm.sp = 0#8 then s.flags else { s.flags with crcMismatch := true } := by
    simp only [bne_iff_ne, ne_eq, ite_not, Flags.set]
  rw [← hflags]
  rfl

/-- The ninth byte ends the device's read (R269). -/
theorem afterPop_spByte_last {ex : Bool} {r : Byte} {s : State} (hj : s.dm.j = 8) :
    afterPop ex .spByte r s = recordReading { s with dm := { s.dm with sp := s.dm.sp.set 8 r, j := 9 } } := by
  have htake : takeSpByte r s = { s with dm := { s.dm with sp := s.dm.sp.set 8 r, j := 9 } } := by
    rw [takeSpByte, hj]
    rfl
  rw [← htake]
  exact if_neg (by rw [hj]; decide)

/-- Settles O44: after the ninth byte the pop is `recordReading`. -/
theorem crcAloneGatesTheReading : Obligations.CrcAloneGatesTheReading := by
  intro s r hs hq hr hj
  refine step_pop_none hs hq hr rfl fun a b => ?_
  exact (afterPop_spByte_last (s := { withTimers a b s with res := [] }) hj).trans (recordReading_eq _)

/-- Settles O45: the places of the device loop, each by its pop. -/
theorem sampleAllReturnsOneReadingPerCode : Obligations.SampleAllReturnsOneReadingPerCode := by
  intro s r hs hr
  refine ⟨fun hq hend => step_pollEnd hs hr hq hend, fun hq => ?_, fun hq hj => ?_, fun hq => ?_, fun hq hj => ?_,
    fun hq hj => ?_⟩
  · exact step_pop_none hs hq hr rfl fun a b => rfl
  · have hsucc := toNat_succ4 (v := s.dm.j) (by omega)
    refine step_pop_none hs hq hr rfl fun a b => ?_
    have hnext : (if (s.dm.j + 1).toNat < 8 then Seq.push Place.addrByte else .push .readCmd) =
        if s.dm.j.toNat = 7 then .push .readCmd else .push .addrByte := by
      by_cases h7 : s.dm.j.toNat = 7
      · rw [if_pos h7, if_neg (by omega)]
      · rw [if_neg h7, if_pos (by omega)]
    rw [← hnext]
    rfl
  · exact step_pop_none hs hq hr rfl fun a b => rfl
  · have hsucc := toNat_succ4 (v := s.dm.j) (by omega)
    exact step_pop_none hs hq hr rfl fun a b => if_pos (by show (s.dm.j + 1).toNat < 9; omega)
  · have hstep := crcAloneGatesTheReading s r hs hq hr (BitVec.eq_of_toNat_eq hj)
    obtain ⟨a, b, g, n, d, o, h⟩ := step_moved_eq hs hstep fun _ _ => controllerMoves_delivered hs
    exact ⟨_, h, rfl, rfl, rfl, fun h => ⟨if_pos h, if_pos h⟩, fun h => ⟨if_neg h, if_neg h⟩⟩

end Sys2Proof.Machine
end

section
/-! PROOFS. CRC8 is linear, and injective in its accumulator and in each byte (R220 to R224). -/

namespace Sys2Proof.Machine

/-! ### One step -/

/-- A step shifts, and adds the polynomial if the bit shifted out is 1. -/
theorem crcStep_eq (acc : Byte) (b : Bool) :
    crcStep acc b = ((acc ^^^ zext8 b) >>> 1) ^^^ if (acc ^^^ zext8 b).getLsbD 0 then 0x8C#8 else 0#8 := by
  unfold crcStep
  dsimp only
  split
  · rfl
  · exact BitVec.xor_zero.symm

theorem zext8_xor (b c : Bool) : zext8 (b ^^ c) = zext8 b ^^^ zext8 c := by
  cases b <;> cases c <;> decide

/-- A step is linear over XOR. -/
theorem crcStep_xor (a a' : Byte) (b b' : Bool) : crcStep (a ^^^ a') (b ^^ b') = crcStep a b ^^^ crcStep a' b' := by
  have hsum : a ^^^ a' ^^^ zext8 (b ^^ b') = (a ^^^ zext8 b) ^^^ (a' ^^^ zext8 b') := by
    rw [zext8_xor]
    ac_rfl
  have hpoly : ∀ x y : Bool,
      (if (x ^^ y) then 0x8C#8 else 0#8) = (if x then 0x8C#8 else 0#8) ^^^ if y then 0x8C#8 else 0#8 := by
    decide
  rw [crcStep_eq, crcStep_eq, crcStep_eq, hsum, BitVec.ushiftRight_xor_distrib, BitVec.getLsbD_xor, hpoly]
  ac_rfl

/-- A step of a nonzero accumulator with bit 0 is nonzero: the polynomial sets bit 7, which a shift leaves 0. -/
theorem eq_zero_of_crcStep {acc : Byte} (h : crcStep acc false = 0#8) : acc = 0#8 := by
  have hsum : acc ^^^ zext8 false = acc := BitVec.xor_zero
  rw [crcStep_eq, hsum] at h
  have hbit : ∀ i, (acc >>> 1).getLsbD i = (if acc.getLsbD 0 then 0x8C#8 else 0#8).getLsbD i := fun i => by
    rw [BitVec.xor_eq_zero_iff.mp h]
  have hlow : acc.getLsbD 0 = false := by
    have h7 := hbit 7
    cases hb : acc.getLsbD 0
    · rfl
    · rw [hb, BitVec.getLsbD_ushiftRight, BitVec.getLsbD_of_ge _ _ (by decide)] at h7
      cases h7
  refine BitVec.eq_of_getLsbD_eq fun i hi => ?_
  cases i with
  | zero => exact hlow
  | succ i =>
    have hi' := hbit i
    rw [hlow, BitVec.getLsbD_ushiftRight, Nat.add_comm] at hi'
    exact hi'.trans (BitVec.getLsbD_zero.trans BitVec.getLsbD_zero.symm)

/-! ### One byte -/

theorem crcBits_xor (v v' : Byte) (n k : Nat) (a a' : Byte) :
    crcBits (v ^^^ v') n k (a ^^^ a') = crcBits v n k a ^^^ crcBits v' n k a' := by
  induction n generalizing k a a' with
  | zero => rfl
  | succ n ih => rw [crcBits, crcBits, crcBits, BitVec.getLsbD_xor, crcStep_xor, ih]

theorem crcByte_xor (a a' v v' : Byte) : crcByte (a ^^^ a') (v ^^^ v') = crcByte a v ^^^ crcByte a' v' :=
  crcBits_xor v v' 8 0 a a'

/-- A step with the accumulator's own lowest bit only shifts. -/
theorem crcStep_self (v : Byte) (k : Nat) : crcStep (v >>> k) (v.getLsbD k) = v >>> (k + 1) := by
  have hlow : (v >>> k ^^^ zext8 (v.getLsbD k)).getLsbD 0 = false := by
    rw [BitVec.getLsbD_xor, BitVec.getLsbD_ushiftRight, Nat.add_zero]
    cases v.getLsbD k <;> rfl
  have hbit : ∀ b : Bool, zext8 b >>> 1 = 0#8 := by decide
  rw [crcStep_eq, hlow, BitVec.ushiftRight_xor_distrib, hbit, ← BitVec.shiftRight_add]
  simp

theorem crcBits_self (v : Byte) (n k : Nat) : crcBits v n k (v >>> k) = v >>> (k + n) := by
  induction n generalizing k with
  | zero => rfl
  | succ n ih => rw [crcBits, crcStep_self, ih, Nat.add_right_comm, Nat.add_assoc]

/-- A byte equal to the accumulator leaves 0 (R224 a). -/
theorem crcByte_self (v : Byte) : crcByte v v = 0#8 := by
  have h : crcBits v 8 0 (v >>> 0) = v >>> 8 := crcBits_self v 8 0
  rw [BitVec.ushiftRight_zero] at h
  exact h.trans (BitVec.ushiftRight_eq_zero (Nat.le_refl 8))

theorem eq_zero_of_crcBits {n k : Nat} {acc : Byte} (h : crcBits 0#8 n k acc = 0#8) : acc = 0#8 := by
  induction n generalizing k acc with
  | zero => exact h
  | succ n ih =>
    rw [crcBits, BitVec.getLsbD_zero] at h
    exact eq_zero_of_crcStep (ih h)

/-- The CRC after a byte determines the accumulator before it XOR the byte. -/
theorem xor_eq_of_crcByte {a a' v v' : Byte} (h : crcByte a v = crcByte a' v') : a ^^^ v = a' ^^^ v' := by
  have hfold : ∀ x w : Byte, crcByte x w = crcByte (x ^^^ w) 0#8 := by
    intro x w
    have hx := crcByte_xor (x ^^^ w) w 0#8 w
    rwa [crcByte_self, BitVec.xor_zero, BitVec.zero_xor, BitVec.xor_assoc, BitVec.xor_self, BitVec.xor_zero] at hx
  have hdiff := crcByte_xor (a ^^^ v) (a' ^^^ v') 0#8 0#8
  rw [← hfold, ← hfold, h, BitVec.xor_self, BitVec.xor_self] at hdiff
  exact BitVec.xor_eq_zero_iff.mp (eq_zero_of_crcBits hdiff)

/-! ### Sequences -/

theorem crcFrom_xor {s t : List Byte} (h : s.length = t.length) (a b : Byte) :
    (List.zipWith (· ^^^ ·) s t).foldl crcByte (a ^^^ b) = s.foldl crcByte a ^^^ t.foldl crcByte b := by
  induction s generalizing t a b with
  | nil =>
    obtain rfl := List.length_eq_zero_iff.mp h.symm
    rfl
  | cons x xs ih =>
    cases t with
    | nil => cases h
    | cons y ys => rw [List.zipWith_cons_cons, List.foldl_cons, crcByte_xor, ih (Nat.succ.inj h)]; rfl

/-- The CRC of a sequence is injective in the value it starts from. -/
theorem crcFrom_injective {s : List Byte} {a b : Byte} (h : s.foldl crcByte a = s.foldl crcByte b) : a = b := by
  induction s generalizing a b with
  | nil => exact h
  | cons x xs ih =>
    rw [List.foldl_cons, List.foldl_cons] at h
    have hbyte : crcByte a x = crcByte b x := ih h
    have hxor : a ^^^ x = b ^^^ x := xor_eq_of_crcByte hbyte
    exact (BitVec.xor_left_inj x).mp hxor

/-- Changing one byte changes the CRC. -/
theorem eq_of_crcFrom_set {s : List Byte} {j : Nat} {v w a : Byte} (hv : s[j]? = some v)
    (h : (s.set j w).foldl crcByte a = s.foldl crcByte a) : w = v := by
  induction s generalizing j a with
  | nil => cases hv
  | cons x xs ih =>
    cases j with
    | zero =>
      obtain rfl : x = v := Option.some.inj hv
      rw [List.set_cons_zero, List.foldl_cons, List.foldl_cons] at h
      have hbyte : crcByte a w = crcByte a x := crcFrom_injective h
      have hxor : a ^^^ w = a ^^^ x := xor_eq_of_crcByte hbyte
      exact (BitVec.xor_right_inj a).mp hxor
    | succ j =>
      rw [List.set_cons_succ, List.foldl_cons, List.foldl_cons] at h
      exact ih hv h

/-- Settles O33: a byte equal to the accumulator gives 0, and the fold is linear because a step is. -/
theorem crcCheckByteAndLinearity : Obligations.CrcCheckByteAndLinearity := by
  refine ⟨fun d => ?_, fun a b h => crcFrom_xor h 0#8 0#8, fun n => ?_, by decide +kernel⟩
  · rw [crc8, List.foldl_append]
    exact crcByte_self _
  · induction n with
    | zero => rfl
    | succ n ih => exact (congrArg (List.foldl crcByte · (List.replicate n 0#8)) (crcByte_self 0#8)).trans ih

/-- Settles O34: a flipped bit is a changed byte. -/
theorem crcDetectsEverySingleBitError : Obligations.CrcDetectsEverySingleBitError := by
  intro s j k v hs hv hk h
  have hflip : v ^^^ (1#8 <<< k) = v := eq_of_crcFrom_set hv (h.trans hs.symm)
  have hzero : 1#8 <<< k = 0#8 := (BitVec.xor_right_inj _).mp (hflip.trans BitVec.xor_zero.symm)
  have hbit := congrArg (BitVec.getLsbD · k) hzero
  simp [hk] at hbit

end Sys2Proof.Machine
end

section
/-! PROOFS. One operation of CONTROLLER's sequences: the element of its place, and at Level T the three steps of its push,
ENGINE's element and its pop (R123 to R128, R160, R206). -/

namespace Sys2Proof.Machine

/-! ### The element of a place -/

/-- Byte j of a code is its bits 8j to 8j + 7 (R49, R95). -/
theorem byteElem_romByte (c : RomCode) (j : Nat) : byteElem (romByte c j) = (c.extractLsb' (8 * j) 8).setWidth 9 := by
  refine congrArg byteElem (BitVec.eq_of_getLsbD_eq fun i hi => ?_)
  rw [romByte_getLsbD _ _ hi, BitVec.getLsbD_extractLsb', decide_eq_true hi, Bool.true_and]

theorem placeElem_addrByte {s : State} {c : RomCode} (h : s.rom[s.dm.k.toNat]? = some c) :
    placeElem .addrByte s = (c.extractLsb' (8 * s.dm.j.toNat) 8).setWidth 9 := by
  rw [placeElem, romEntry_of_getElem? h, byteElem_romByte]

/-! ### The bus activity of an element at Level T -/

/-- The bus activity of an element and its result: `Bus.reset()`, or the slots of its data in the framing in force (R161,
R162). -/
def elemAct (e : Elem) (s : State) : State × Byte :=
  if elemRst e then ((busReset s).1, zext8 (busReset s).2) else slots (elemData e) s.framing.width 0 0#8 s

theorem elemAct_eq (e : Elem) (s : State) : ∃ b d o, (elemAct e s).1 = setBus b d o s := by
  unfold elemAct
  split
  · exact busReset_eq s
  · exact slots_eq _ _ _ _ _

theorem afterReset_transaction {x : State × Bool} (hl : x.1.level = .transaction) : afterReset x = x.1 := by
  rw [afterReset, leaveEngine_eq, hl]
  rfl

/-- At Level T ENGINE's element is its bus activity and one result (R160). -/
theorem performElem_transaction {e : Elem} {s : State} (hl : s.level = .transaction) :
    performElem e s = pushRes (elemAct e s).2 (elemAct e s).1 := by
  unfold performElem elemAct
  split
  · exact congrArg (pushRes _) (afterReset_transaction ((busReset_level s).trans hl))
  · refine congrArg (pushRes _) (afterXfer_transaction _ ?_)
    obtain ⟨b, d, o, h⟩ := slots_eq (elemData e) s.framing.width 0 0#8 s
    rw [h]
    exact hl

/-- At Level T with ENGINE quiescent a BusController operation is the bus activity of its element (R206). -/
theorem transact_transaction {e : Elem} {s : State} (hl : s.level = .transaction) (hq : quiescent s = true)
    (hd : 0 < s.par.fifoDepth) : transact e s = some (elemAct e s) := by
  rw [transact_quiescent e s hq hd, elemAct]
  split
  · rw [afterReset_transaction ((busReset_level s).trans hl)]
  · dsimp only
    rw [afterXfer_transaction]
    obtain ⟨b, d, o, h⟩ := slots_eq (elemData e) s.framing.width 0 0#8 s
    rw [h]
    exact hl

theorem elemAct_offBus {f : State → State} (hf : OffBus f) (hw : ∀ s, (f s).framing = s.framing) (e : Elem) (s : State) :
    elemAct e (f s) = (f (elemAct e s).1, (elemAct e s).2) := by
  unfold elemAct
  split
  · rw [busReset_offBus hf]
  · rw [hw, slots_offBus hf]

/-! ### The three steps -/

/-- CTL.seq at the pop of p, nothing in CMD. -/
def atPop (p : Place) (s : State) : State := { s with cmd := [], seq := .pop p }

theorem atPop_offBus (p : Place) : OffBus (atPop p) :=
  ⟨fun _ => rfl, fun _ => rfl, fun _ => rfl, fun _ _ _ _ => rfl⟩

/-- What follows a pop does not read `CTL.seq`. -/
theorem afterPop_atPop (ex : Bool) (p q : Place) (r : Byte) {s : State} (hc : s.cmd = []) :
    afterPop ex p r (atPop q s) = afterPop ex p r s := by
  have hs : atPop q s = { s with seq := .pop q } := by rw [atPop, ← hc]
  rw [hs]
  cases p <;> rfl

/-- One operation of the core's own sequences at Level T, from its push to what follows its pop. -/
def afterOp (p : Place) (s : State) : State :=
  let x := elemAct (placeElem p s) s
  reframed (popFraming p x.2 x.1) (afterPop (pollExhausted s) p x.2 x.1)

theorem run_succ {k : Nat} {s t : State} (h : step s = .next t) : run (k + 1) s = run k t := by
  rw [run, h, onNext]

/-- At Level T, with a silent host, ENGINE performs the element that CMD holds. -/
theorem step_single_element {s : State} {e : Elem} (hl : s.level = .transaction) (hq : s.hostQuiet)
    (he : s.eng.phase = .idle) (hc : s.cmd = [e]) (hr : s.res = []) (hd : 0 < s.par.fifoDepth) :
    step s = .next (performElem e { s with cmd := [] }) := by
  obtain ⟨hh, hi, hiss⟩ := hq
  have hroom : s.res.length < s.par.fifoDepth := by rw [hr]; exact hd
  have hfree : engineFree s = true := (engineFree_iff s).mpr ⟨he, hroom⟩
  have hexec : exec (decodeElem s.framing e) { s with cmd := [] } = .next (performElem e { s with cmd := [] }) :=
    exec_decodeElem_transaction (s := { s with cmd := [] }) hl hfree
  have hstay : nextCycle (performElem e { s with cmd := [] }) = performElem e { s with cmd := [] } :=
    nextCycle_quiet _ ((performElem_inbox _ _).trans hi) ((performElem_host _ _).trans hh)
  rw [step_element_transaction ⟨by rw [hh]; rfl, hiss⟩ hl (by rw [hh]; rfl) hfree hc, hexec, onNext, hstay]

/-- At Level T CONTROLLER's pop, with its SET_FRAMING. -/
theorem step_pop_transaction {s : State} {p : Place} {r : Byte} (ht : s.controllerTurn) (hq : s.seq = .pop p)
    (hr : s.res = [r]) : step s = .next (reframed (popFraming p r s)
      (afterPop (pollExhausted s) p r { s with res := [] })) := by
  obtain ⟨hl, -, he, -⟩ := id ht
  have hspent : budgetSpent s = pollExhausted s := by
    unfold budgetSpent
    rw [hl]
    rfl
  rw [step_pop (g := fun u => reframed (popFraming p r s) (afterPop (budgetSpent s) p r { u with res := [] })) (.inl ht)
    hq hr rfl (fun _ => he) fun _ _ => rfl, moved_transaction _ hl, hspent]

/-- The three steps of an operation at Level T (R160, R206). -/
theorem run_three {s : State} {p : Place} (ht : s.controllerTurn) (hr : s.res = []) (hd : 0 < s.par.fifoDepth)
    (hq : s.seq = .push p) : run 3 s = .next (afterOp p s) := by
  obtain ⟨hl, hquiet, he, hc⟩ := id ht
  obtain ⟨b, d, o, hu⟩ := elemAct_eq (placeElem p s) s
  generalize hx : elemAct (placeElem p s) s = x at hu
  obtain ⟨u, r⟩ := x
  obtain rfl : u = setBus b d o s := hu
  have hpush : step s = .next { s with cmd := [placeElem p s], seq := .pop p } := by
    rw [step_push (.inl ht) hd hq, moved_transaction _ hl]
  have hact : performElem (placeElem p s) (atPop p s) = { atPop p (setBus b d o s) with res := [r] } := by
    have hres : (atPop p (setBus b d o s)).res = [] := hr
    rw [performElem_transaction (s := atPop p s) hl, elemAct_offBus (atPop_offBus p) (fun _ => rfl), hx, pushRes, hres]
    rfl
  have helem : step { s with cmd := [placeElem p s], seq := .pop p } = .next { atPop p (setBus b d o s) with res := [r] } :=
    (step_single_element (s := { s with cmd := [placeElem p s], seq := .pop p }) hl hquiet he rfl hr hd).trans
      (congrArg Host.Outcome.next hact)
  have hpop := step_pop_transaction (s := { atPop p (setBus b d o s) with res := [r] }) (p := p) (r := r)
    ⟨hl, hquiet, he, rfl⟩ rfl rfl
  have hempty : ({ atPop p (setBus b d o s) with res := [] } : State) = atPop p (setBus b d o s) := by
    rw [← hr]
    rfl
  have hframe : popFraming p r { atPop p (setBus b d o s) with res := [r] } = popFraming p r (setBus b d o s) := by
    cases p <;> rfl
  have hafter : afterPop (pollExhausted s) p r { atPop p (setBus b d o s) with res := [] } =
      afterPop (pollExhausted s) p r (setBus b d o s) :=
    (congrArg (afterPop (pollExhausted s) p r) hempty).trans (afterPop_atPop _ p p r hc)
  rw [run_succ hpush, run_succ helem, run_succ hpop, run, hframe, afterOp, hx]
  exact congrArg (fun v => Host.Outcome.next (reframed (popFraming p r (setBus b d o s)) v)) hafter

/-- Settles O54: the element of the place, and the three steps of its operation. -/
theorem threeStepsAreOneBusOperation : Obligations.ThreeStepsAreOneBusOperation := by
  refine ⟨fun s p code hs hd hq hcode => ?_, fun s u p r ht hr hd hq htr => ?_⟩
  · rw [step_push hs hd hq]
    cases p
    case addrByte => rw [placeElem_addrByte (hcode rfl)]
    all_goals rfl
  · obtain ⟨hl, -, he, hc⟩ := id ht
    have hquiescent : quiescent s = true := (quiescent_iff s).mpr ⟨he, hc, hr⟩
    have hact : elemAct (placeElem p s) s = (u, r) :=
      Option.some.inj ((transact_transaction hl hquiescent hd).symm.trans htr)
    rw [run_three ht hr hd hq, afterOp, hact]
    cases popFraming p r u <;> rfl

end Sys2Proof.Machine
end

section
/-! PROOFS. A sequence of operations at Level T with a silent host ends: each operation takes three steps and uses up a
bound (R245, R308). -/

namespace Sys2Proof.Machine

/-! ### Runs -/

theorem run_add (j k : Nat) (s : State) : run (j + k) s = onNext (run j s) (run k) := by
  induction j generalizing s with
  | zero => rw [Nat.zero_add]; rfl
  | succ j ih =>
    rw [Nat.succ_add_eq_add_succ, Nat.add_succ, run, run]
    cases step s with
    | next t => exact ih t
    | fault x => rfl
    | refused x => rfl

theorem run_trans {j k : Nat} {s t : State} {o : Host.Outcome State Fault Refusal} (h : run j s = .next t)
    (h' : run k t = o) : run (j + k) s = o := by
  rw [run_add, h, onNext, h']

/-- A legal state at Level T with a silent host. -/
abbrev Calm (s : State) : Prop := s.wf ∧ s.flowOk ∧ s.level = .transaction ∧ s.hostQuiet

/-- Between two operations nothing is under way: the next step is CONTROLLER's. -/
theorem Calm.turn {s : State} (hs : Calm s) (hq : ∀ p, s.seq ≠ .pop p) : s.controllerTurn ∧ s.res = [] := by
  obtain ⟨-, hflow, hl, hquiet⟩ := hs
  obtain ⟨-, -, -, hT, hplace⟩ := flowOk_iff.mp hflow
  obtain ⟨hc, hr, -⟩ := placeFlow_rest_cases hq hplace
  exact ⟨⟨hl, hquiet, hT hl, hc⟩, hr⟩

theorem Calm.fifoDepth {s : State} (hs : Calm s) : 0 < s.par.fifoDepth := by
  obtain ⟨hd, -⟩ := hs.1.1.2
  omega

/-- A step keeps a legal state, and one that is no CTRL write keeps the host silent. -/
theorem Calm.step {s t : State} (hs : Calm s) (h : step s = .next t) (hquiet : t.hostQuiet) : Calm t := by
  obtain ⟨hwf, hflow, hl, -⟩ := hs
  obtain ⟨t', ht', hflow'⟩ := noHostAndNoBusCanStopTheCore s hflow
  cases h.symm.trans ht'
  exact ⟨everyStepKeepsRangesAndSizes s t hwf h, hflow', (step_level h).trans hl, hquiet⟩

/-- The invariants are kept over a run. -/
theorem run_keeps {k : Nat} {s t : State} (hwf : s.wf) (hflow : s.flowOk) (h : run k s = .next t) : t.wf ∧ t.flowOk := by
  induction k generalizing s with
  | zero =>
    cases h
    exact ⟨hwf, hflow⟩
  | succ k ih =>
    obtain ⟨u, hu, h⟩ := onNext_next h
    obtain ⟨u', hu', hflow'⟩ := noHostAndNoBusCanStopTheCore s hflow
    cases hu.symm.trans hu'
    exact ih (everyStepKeepsRangesAndSizes s u hwf hu) hflow' h

/-- What one operation leaves: the result of its place's element used, after a change of the bus. -/
theorem afterOp_eq (p : Place) (s : State) : ∃ b d o r w,
    afterOp p s = reframed w (afterPop (pollExhausted s) p r (setBus b d o s)) := by
  obtain ⟨b, d, o, h⟩ := elemAct_eq (placeElem p s) s
  exact ⟨b, d, o, (elemAct (placeElem p s) s).2, popFraming p (elemAct (placeElem p s) s).2 (elemAct (placeElem p s) s).1,
    by rw [← h]; rfl⟩

/-- One operation is three steps to a legal state. -/
theorem Calm.op {s : State} {p : Place} (hs : Calm s) (hq : s.seq = .push p) :
    run 3 s = .next (afterOp p s) ∧ Calm (afterOp p s) := by
  obtain ⟨hturn, hr⟩ := hs.turn (by simp [hq])
  have hrun := run_three hturn hr hs.fifoDepth hq
  obtain ⟨hwf, hflow, hl, hhost, hinbox, hissue⟩ := hs
  obtain ⟨hwf', hflow'⟩ := run_keeps hwf hflow hrun
  refine ⟨hrun, hwf', hflow', ?_⟩
  obtain ⟨b, d, o, r, w, h⟩ := afterOp_eq p s
  obtain ⟨ho, -⟩ := afterPop_outside (pollExhausted s) p r (setBus b d o s)
  have hports : (afterPop (pollExhausted s) p r (setBus b d o s)).ports.host = s.ports.host :=
    (congrArg Ports.host ho.ports).trans rfl
  rw [h]
  cases w with
  | none => exact ⟨ho.level.trans hl, hports.trans hhost, ho.inbox.trans hinbox, ho.issue.trans hissue⟩
  | some w => exact ⟨ho.level.trans hl, hports.trans hhost, ho.inbox.trans hinbox, ho.issue.trans hissue⟩

/-! ### Ending within a bound -/

/-- A sequence described by I ends within the bound m, if each of its operations uses up three of it and each wait in the
poll gap one. -/
theorem ends_within {I : State → Prop} {m : State → Nat}
    (hplace : ∀ s, I s → s.seq = .hostIdle ∨ (∃ p, s.seq = .push p) ∨ s.seq = .pollGap)
    (hop : ∀ s p, Calm s → I s → s.seq = .push p → I (afterOp p s) ∧ m (afterOp p s) + 3 ≤ m s)
    (hgap : ∀ s, Calm s → I s → s.seq = .pollGap → ∃ t, step s = .next t ∧ Calm t ∧ I t ∧ m t + 1 ≤ m s)
    {s : State} (hs : Calm s) (hI : I s) :
    ∃ n t, n ≤ m s ∧ run n s = .next t ∧ Calm t ∧ I t ∧ t.seq = .hostIdle := by
  induction hm : m s using Nat.strong_induction_on generalizing s with
  | _ b ih =>
    subst hm
    obtain hq | ⟨p, hq⟩ | hq := hplace s hI
    · exact ⟨0, s, Nat.zero_le _, rfl, hs, hI, hq⟩
    · obtain ⟨hrun, hs'⟩ := hs.op hq
      obtain ⟨hI', hm'⟩ := hop s p hs hI hq
      obtain ⟨n, t, hn, hrun', ht⟩ := ih _ (by omega) hs' hI' rfl
      exact ⟨3 + n, t, by omega, run_trans hrun hrun', ht⟩
    · obtain ⟨u, hstep, hs', hI', hm'⟩ := hgap s hs hI hq
      obtain ⟨n, t, hn, hrun', ht⟩ := ih _ (by omega) hs' hI' rfl
      exact ⟨n + 1, t, by omega, by rw [run_succ hstep, hrun'], ht⟩

/-! ### DISCOVER -/

/-- The places of a search, HOST_IDLE at its end included. -/
def InSearch (s : State) : Prop := s.seq = .hostIdle ∨ ∃ p, s.seq = .push p ∧ p.ofSearch = true

/-- The steps that a search may still take with `free` entries left in the table and i positions done: 582 for a pass,
nine of them for a position (R232 to R240). -/
def passBound (q : Seq) (free i : Nat) : Nat :=
  match q with
  | .push .passReset => 582 * free
  | .push .searchCmd => 582 * (free - 1) + 579
  | .push .readB1 => 582 * (free - 1) + 9 * (64 - i)
  | .push .readB2 => 582 * (free - 1) + 9 * (63 - i) + 6
  | .push .writeDir => 582 * (free - 1) + 9 * (63 - i) + 3
  | _ => 0

def searchBound (s : State) : Nat := passBound s.seq (s.par.nMax - s.romCount.toNat) s.rs.i.toNat

theorem searchBound_reframed (w : Option Framing) (s : State) : searchBound (reframed w s) = searchBound s := by
  cases w <;> rfl

theorem InSearch.reframed {s : State} (w : Option Framing) (h : InSearch s) : InSearch (reframed w s) := by
  cases w <;> exact h

/-- A pass makes the table one code longer, so that the passes are at most N_MAX (R241, R245). -/
theorem searchBound_recordPass {s : State} (hn : s.par.nMax ≤ 64) (hroom : s.romCount.toNat < s.par.nMax) :
    InSearch (recordPass s) ∧ searchBound (recordPass s) ≤ 582 * (s.par.nMax - s.romCount.toNat - 1) := by
  have hsucc := toNat_succ7 (v := s.romCount) (by omega)
  obtain ⟨-, h⟩ | ⟨-, -, h⟩ | ⟨-, -, h⟩ := recordPass_cases s <;> rw [h]
  · exact ⟨.inl rfl, Nat.zero_le _⟩
  · refine ⟨.inr ⟨_, rfl, rfl⟩, ?_⟩
    show 582 * (s.par.nMax - (s.romCount + 1).toNat) ≤ _
    omega
  · exact ⟨.inl rfl, Nat.zero_le _⟩

/-- Every operation of a search uses up three steps of its bound, whatever the bus answers. -/
theorem searchBound_afterPop {ex : Bool} {p : Place} {r : Byte} {s : State} (hn : s.par.nMax ≤ 64)
    (hp : p.ofSearch = true) (hroom : s.romCount.toNat < s.par.nMax) (hi : p.inBits = true → s.rs.i.toNat < 64) :
    InSearch (afterPop ex p r s) ∧
      searchBound (afterPop ex p r s) + 3 ≤ passBound (.push p) (s.par.nMax - s.romCount.toNat) s.rs.i.toNat := by
  cases p
  case passReset =>
    cases hr : r.getLsbD 0 <;> simp only [afterPop, hr]
    · refine ⟨.inr ⟨_, rfl, rfl⟩, ?_⟩
      show 582 * (s.par.nMax - s.romCount.toNat - 1) + 579 + 3 ≤ 582 * (s.par.nMax - s.romCount.toNat)
      omega
    · refine ⟨.inl rfl, ?_⟩
      show 0 + 3 ≤ 582 * (s.par.nMax - s.romCount.toNat)
      omega
  case searchCmd =>
    exact ⟨.inr ⟨_, rfl, rfl⟩, Nat.le_refl (582 * (s.par.nMax - s.romCount.toNat - 1) + 579)⟩
  case readB1 =>
    refine ⟨.inr ⟨_, rfl, rfl⟩, ?_⟩
    have hi' := hi rfl
    show 582 * (s.par.nMax - s.romCount.toNat - 1) + 9 * (63 - s.rs.i.toNat) + 6 + 3 ≤
      582 * (s.par.nMax - s.romCount.toNat - 1) + 9 * (64 - s.rs.i.toNat)
    omega
  case readB2 =>
    simp only [afterPop]
    split
    · exact ⟨.inl rfl, by show 0 + 3 ≤ _ + 6; omega⟩
    · refine ⟨.inr ⟨_, rfl, rfl⟩, ?_⟩
      have hsame : (chooseDir { s.rs with b2 := r.getLsbD 0 }).i = s.rs.i := by
        unfold chooseDir
        repeat' split
        all_goals rfl
      show 582 * (s.par.nMax - s.romCount.toNat - 1) + 9 * (63 - (chooseDir { s.rs with b2 := r.getLsbD 0 }).i.toNat) + 3 + 3 ≤
        582 * (s.par.nMax - s.romCount.toNat - 1) + 9 * (63 - s.rs.i.toNat) + 6
      rw [hsame]
  case writeDir =>
    have hi' := hi rfl
    have hsucc := toNat_succ7 hi'
    by_cases hlast : s.rs.i.toNat < 63
    · rw [afterPop_writeDir_lt hlast]
      refine ⟨.inr ⟨_, rfl, rfl⟩, ?_⟩
      show 582 * (s.par.nMax - s.romCount.toNat - 1) + 9 * (64 - (s.rs.i + 1).toNat) + 3 ≤
        582 * (s.par.nMax - s.romCount.toNat - 1) + 9 * (63 - s.rs.i.toNat) + 3
      omega
    · rw [afterPop_writeDir_last (by omega)]
      obtain ⟨hin, hle⟩ := searchBound_recordPass (s := { s with rs := takeDir s.rs }) hn hroom
      refine ⟨hin, (Nat.add_le_add_right hle 3).trans ?_⟩
      show 582 * (s.par.nMax - s.romCount.toNat - 1) + 3 ≤
        582 * (s.par.nMax - s.romCount.toNat - 1) + 9 * (63 - s.rs.i.toNat) + 3
      omega
  all_goals cases hp

/-- An operation of a search uses up three steps of its bound. -/
theorem searchBound_afterOp {s : State} {p : Place} (hs : Calm s) (hin : InSearch s) (hq : s.seq = .push p) :
    InSearch (afterOp p s) ∧ searchBound (afterOp p s) + 3 ≤ searchBound s := by
  have hp : p.ofSearch = true := by
    obtain h | ⟨p', h, hp'⟩ := hin
    · rw [hq] at h
      cases h
    · rw [hq] at h
      cases h
      exact hp'
  obtain ⟨⟨-, -, ⟨-, hn⟩, -⟩, -, hplace⟩ := wf_iff.mp hs.1
  rw [hq] at hplace
  obtain ⟨hroom, hi, -, -⟩ := hplace
  obtain ⟨b, d, o, r, w, h⟩ := afterOp_eq p s
  obtain ⟨hin', hle⟩ := searchBound_afterPop (ex := pollExhausted s) (r := r) (s := setBus b d o s) hn hp (hroom hp) hi
  rw [h, searchBound_reframed]
  refine ⟨hin'.reframed w, hle.trans (Nat.le_of_eq ?_)⟩
  rw [searchBound, hq]
  rfl

/-- Settles O57: the bound of DISCOVER_START is one step and 582 for each entry of the table. -/
theorem discoverEndsOnEveryBus : Obligations.DiscoverEndsOnEveryBus := by
  intro s hwf hflow hl hquiet hq
  have hs : Calm s := ⟨hwf, hflow, hl, hquiet⟩
  have hstep := discoverStartsAfresh s (.inl (hs.turn (by simp [hq])).1) hq
  rw [moved_transaction _ hl] at hstep
  have hnogap : ∀ u, InSearch u → u.seq ≠ .pollGap := by
    rintro u (h | ⟨p, h, -⟩) hgap
    · rw [hgap] at h
      cases h
    · rw [hgap] at h
      cases h
  obtain ⟨n, t, hn, hrun, ⟨-, hflow', -⟩, -, hidle⟩ := ends_within (m := searchBound)
    (fun u hu => hu.imp_right fun ⟨p, hp, _⟩ => .inl ⟨p, hp⟩) (fun u p hu hin hp => searchBound_afterOp hu hin hp)
    (fun u _ hin hgap => absurd hgap (hnogap u hin)) (hs.step hstep hquiet) (.inr ⟨_, rfl, rfl⟩)
  have hbound : n ≤ 582 * (s.par.nMax - 0) := hn
  obtain ⟨-, -, hframe, -, hplace⟩ := flowOk_iff.mp hflow'
  rw [hidle] at hframe hplace
  exact ⟨n + 1, t, by omega, (run_succ hstep).trans hrun, hidle, hplace.1, hplace.2.1, hframe⟩

end Sys2Proof.Machine
end

section
/-! PROOFS. SAMPLE_ALL ends on every bus, with no Reading or one for every code (R303, R308). -/

namespace Sys2Proof.Machine

/-- The places of SAMPLE_ALL: no Reading is counted while it runs; at its end all are, or none after a BusFault. -/
def InSample (s : State) : Prop :=
  (s.rdgCount = 0 ∧ ((∃ p, s.seq = .push p ∧ p.ofSearch = false) ∨ s.seq = .pollGap)) ∨
  (s.seq = .hostIdle ∧ (s.rdgCount = s.romCount ∨ s.rdgCount = 0 ∧ s.flags.busFault = true))

/-- The steps that SAMPLE_ALL may still take, c of at most m poll reads made and the reading of n devices at device k, byte
j: four for a poll read and its gap, 60 for a device (R261 to R269). -/
def readBound (q : Seq) (m c n k j : Nat) : Nat :=
  match q with
  | .push .sampleReset => 9 + 4 * m + 60 * n
  | .push .addrAll => 6 + 4 * m + 60 * n
  | .push .startConv => 3 + 4 * m + 60 * n
  | .push .pollRead => 4 * (m - c - 1) + 3 + 60 * n
  | .pollGap => 4 * (m - c - 1) + 4 + 60 * n
  | .push .devReset => 60 * (n - k)
  | .push .addrOne => 60 * (n - k - 1) + 57
  | .push .addrByte => 60 * (n - k - 1) + 33 + 3 * (7 - j)
  | .push .readCmd => 60 * (n - k - 1) + 30
  | .push .spByte => 60 * (n - k - 1) + 3 + 3 * (8 - j)
  | _ => 0

def sampleBound (s : State) : Nat :=
  readBound s.seq s.par.pollMaxReads s.pollReads s.romCount.toNat s.dm.k.toNat s.dm.j.toNat

theorem atDev_last {s : State} (hk : s.dm.k = s.romCount) :
    atDev s = { s with rdgCount := s.romCount, seq := .hostIdle } := by
  rw [atDev, if_pos hk, if_pos hk]

theorem atDev_next {s : State} (hk : s.dm.k ≠ s.romCount) : atDev s = { s with seq := .push .devReset } := by
  rw [atDev, if_neg hk, if_neg hk]

/-- DEV goes on to device k or ends with all Readings counted (R266, R275). -/
theorem sampleBound_atDev {s : State} (h0 : s.rdgCount = 0) :
    InSample (atDev s) ∧ sampleBound (atDev s) ≤ 60 * (s.romCount.toNat - s.dm.k.toNat) := by
  by_cases hk : s.dm.k = s.romCount
  · rw [atDev_last hk]
    exact ⟨.inr ⟨rfl, .inl rfl⟩, Nat.zero_le _⟩
  · rw [atDev_next hk]
    exact ⟨.inl ⟨h0, .inl ⟨_, rfl, rfl⟩⟩, Nat.le_refl _⟩

theorem InSample.raise {s : State} {x : FaultFlag} (h : InSample s) : InSample (raiseFault x s) := by
  obtain h | ⟨hq, h | ⟨h0, hb⟩⟩ := h
  · exact .inl h
  · exact .inr ⟨hq, .inl h⟩
  · have hget : (s.flags.set x).get .busFault = true := by
      rw [Flags.get_set]
      exact Bool.or_eq_true_iff.mpr (.inl hb)
    exact .inr ⟨hq, .inr ⟨h0, hget⟩⟩

theorem InSample.raiseIf {s : State} {c : Bool} {x : FaultFlag} (h : InSample s) : InSample (raiseIf c x s) := by
  cases c
  · exact h
  · exact h.raise

/-- Every operation of SAMPLE_ALL uses up three steps of its bound, whatever the bus answers. -/
theorem sampleBound_afterPop {p : Place} {r : Byte} {s : State} (hm : 1 ≤ s.par.pollMaxReads) (hp : p.ofSearch = false)
    (h0 : s.rdgCount = 0) (hk : p.ofDevice = true → s.dm.k.toNat < s.romCount.toNat)
    (hj : p = .addrByte ∨ p = .spByte → s.dm.j.toNat ≤ 8) (hn : s.romCount.toNat ≤ 64) :
    InSample (afterPop (pollExhausted s) p r s) ∧
      sampleBound (afterPop (pollExhausted s) p r s) + 3 ≤
        readBound (.push p) s.par.pollMaxReads s.pollReads s.romCount.toNat s.dm.k.toNat s.dm.j.toNat := by
  cases p
  case sampleReset =>
    cases hr : r.getLsbD 0 <;> simp only [afterPop, hr]
    · refine ⟨.inl ⟨h0, .inl ⟨_, rfl, rfl⟩⟩, ?_⟩
      show 6 + 4 * s.par.pollMaxReads + 60 * s.romCount.toNat + 3 ≤ 9 + 4 * s.par.pollMaxReads + 60 * s.romCount.toNat
      omega
    · refine ⟨.inr ⟨rfl, .inr ⟨h0, rfl⟩⟩, ?_⟩
      show 0 + 3 ≤ 9 + 4 * s.par.pollMaxReads + 60 * s.romCount.toNat
      omega
  case addrAll =>
    refine ⟨.inl ⟨h0, .inl ⟨_, rfl, rfl⟩⟩, ?_⟩
    show 3 + 4 * s.par.pollMaxReads + 60 * s.romCount.toNat + 3 ≤ 6 + 4 * s.par.pollMaxReads + 60 * s.romCount.toNat
    omega
  case startConv =>
    refine ⟨.inl ⟨h0, .inl ⟨_, rfl, rfl⟩⟩, ?_⟩
    show 4 * (s.par.pollMaxReads - 0 - 1) + 3 + 60 * s.romCount.toNat + 3 ≤
      3 + 4 * s.par.pollMaxReads + 60 * s.romCount.toNat
    omega
  case pollRead =>
    have hall : InSample (atReadAll s) ∧ sampleBound (atReadAll s) ≤ 60 * s.romCount.toNat :=
      sampleBound_atDev (s := { s with dm := { s.dm with k := 0 } }) h0
    have hnow : readBound (.push .pollRead) s.par.pollMaxReads s.pollReads s.romCount.toNat s.dm.k.toNat s.dm.j.toNat =
      4 * (s.par.pollMaxReads - s.pollReads - 1) + 3 + 60 * s.romCount.toNat := rfl
    rw [hnow]
    simp only [afterPop]
    split
    · exact ⟨hall.1, by omega⟩
    · split
      · exact ⟨hall.1.raise, by show sampleBound (atReadAll s) + 3 ≤ _; omega⟩
      · next hspent =>
        have hleft : ¬s.par.pollMaxReads ≤ s.pollReads + 1 := by simpa [pollExhausted] using hspent
        refine ⟨.inl ⟨h0, .inr rfl⟩, ?_⟩
        show 4 * (s.par.pollMaxReads - (s.pollReads + 1) - 1) + 4 + 60 * s.romCount.toNat + 3 ≤
          4 * (s.par.pollMaxReads - s.pollReads - 1) + 3 + 60 * s.romCount.toNat
        omega
  case devReset =>
    have hk' := hk rfl
    refine ⟨.inl ⟨h0, .inl ⟨_, rfl, rfl⟩⟩, ?_⟩
    show 60 * (s.romCount.toNat - s.dm.k.toNat - 1) + 57 + 3 ≤ 60 * (s.romCount.toNat - s.dm.k.toNat)
    omega
  case addrOne =>
    refine ⟨.inl ⟨h0, .inl ⟨_, rfl, rfl⟩⟩, ?_⟩
    show 60 * (s.romCount.toNat - s.dm.k.toNat - 1) + 33 + 3 * (7 - 0) + 3 ≤
      60 * (s.romCount.toNat - s.dm.k.toNat - 1) + 57
    omega
  case addrByte =>
    have hsucc := toNat_succ4 (hj (.inl rfl))
    have hj' := hj (.inl rfl)
    by_cases hlast : (s.dm.j + 1).toNat < 8 <;> simp only [afterPop, hlast, if_true, if_false]
    · refine ⟨.inl ⟨h0, .inl ⟨_, rfl, rfl⟩⟩, ?_⟩
      show 60 * (s.romCount.toNat - s.dm.k.toNat - 1) + 33 + 3 * (7 - (s.dm.j + 1).toNat) + 3 ≤
        60 * (s.romCount.toNat - s.dm.k.toNat - 1) + 33 + 3 * (7 - s.dm.j.toNat)
      omega
    · refine ⟨.inl ⟨h0, .inl ⟨_, rfl, rfl⟩⟩, ?_⟩
      show 60 * (s.romCount.toNat - s.dm.k.toNat - 1) + 30 + 3 ≤
        60 * (s.romCount.toNat - s.dm.k.toNat - 1) + 33 + 3 * (7 - s.dm.j.toNat)
      omega
  case readCmd =>
    refine ⟨.inl ⟨h0, .inl ⟨_, rfl, rfl⟩⟩, ?_⟩
    show 60 * (s.romCount.toNat - s.dm.k.toNat - 1) + 3 + 3 * (8 - 0) + 3 ≤
      60 * (s.romCount.toNat - s.dm.k.toNat - 1) + 30
    omega
  case spByte =>
    have hsucc := toNat_succ4 (hj (.inr rfl))
    have hj' := hj (.inr rfl)
    have hk' := hk rfl
    simp only [afterPop]
    split
    · refine ⟨.inl ⟨h0, .inl ⟨_, rfl, rfl⟩⟩, ?_⟩
      show 60 * (s.romCount.toNat - s.dm.k.toNat - 1) + 3 + 3 * (8 - (s.dm.j + 1).toNat) + 3 ≤
        60 * (s.romCount.toNat - s.dm.k.toNat - 1) + 3 + 3 * (8 - s.dm.j.toNat)
      omega
    · have hkn := toNat_succ7 (v := s.dm.k) (by omega)
      obtain ⟨hin, hle⟩ := sampleBound_atDev (s := { takeSpByte r s with
        rdg := s.rdg.set s.dm.k.toNat (readingOf (takeSpByte r s).dm.sp)
        dm := { (takeSpByte r s).dm with crc := crc8 (takeSpByte r s).dm.sp, k := s.dm.k + 1 } }) h0
      refine ⟨hin.raiseIf, (Nat.add_le_add_right hle 3).trans ?_⟩
      show 60 * (s.romCount.toNat - (s.dm.k + 1).toNat) + 3 ≤
        60 * (s.romCount.toNat - s.dm.k.toNat - 1) + 3 + 3 * (8 - s.dm.j.toNat)
      omega
  all_goals cases hp

/-- An operation of SAMPLE_ALL uses up three steps of its bound and leaves the ROM table. -/
theorem sampleBound_afterOp {s : State} {p : Place} (hs : Calm s) (hin : InSample s) (hq : s.seq = .push p) :
    (InSample (afterOp p s) ∧ (afterOp p s).rom = s.rom ∧ (afterOp p s).romCount = s.romCount) ∧
      sampleBound (afterOp p s) + 3 ≤ sampleBound s := by
  obtain ⟨h0, hp⟩ : s.rdgCount = 0 ∧ p.ofSearch = false := by
    obtain ⟨h0, ⟨p', h, hp'⟩ | h⟩ | ⟨h, -⟩ := hin
    · rw [hq] at h
      cases h
      exact ⟨h0, hp'⟩
    · rw [hq] at h
      cases h
    · rw [hq] at h
      cases h
  obtain ⟨⟨-, -, ⟨-, hn⟩, -, hm⟩, ⟨-, -, ⟨hrc, -⟩, -⟩, hplace⟩ := wf_iff.mp hs.1
  rw [hq] at hplace
  obtain ⟨-, -, hk, hj⟩ := hplace
  obtain ⟨b, d, o, r, w, h⟩ := afterOp_eq p s
  obtain ⟨hin', hle⟩ := sampleBound_afterPop (r := r) (s := setBus b d o s) hm hp h0 hk hj (hrc.trans hn)
  have htable : (afterPop (pollExhausted s) p r (setBus b d o s)).rom = s.rom ∧
      (afterPop (pollExhausted s) p r (setBus b d o s)).romCount = s.romCount := by
    obtain h | ⟨rfl, -⟩ := afterPop_rom (pollExhausted s) p r (setBus b d o s)
    · exact h
    · cases hp
  have hbound : sampleBound s = readBound (.push p) s.par.pollMaxReads s.pollReads s.romCount.toNat s.dm.k.toNat
      s.dm.j.toNat := by
    rw [sampleBound, hq]
  rw [h, hbound]
  cases w <;> exact ⟨⟨hin', htable⟩, hle⟩

/-- The wait in the poll gap is one step at Level T. -/
theorem sampleBound_pollGap {s : State} (hs : Calm s) (hin : InSample s) (hq : s.seq = .pollGap) :
    ∃ t, step s = .next t ∧ Calm t ∧ (InSample t ∧ t.rom = s.rom ∧ t.romCount = s.romCount) ∧
      sampleBound t + 1 ≤ sampleBound s := by
  have h0 : s.rdgCount = 0 := by
    obtain ⟨h0, -⟩ | ⟨h, -⟩ := hin
    · exact h0
    · rw [hq] at h
      cases h
  obtain ⟨hturn, -⟩ := hs.turn (by simp [hq])
  obtain ⟨hl, hquiet, -⟩ := id hturn
  have hstep := step_pollGap (.inl hturn) hq (.inl hl)
  rw [moved_transaction _ hl] at hstep
  refine ⟨_, hstep, hs.step hstep hquiet, ⟨.inl ⟨h0, .inl ⟨_, rfl, rfl⟩⟩, rfl, rfl⟩, ?_⟩
  have hnow : sampleBound s = 4 * (s.par.pollMaxReads - s.pollReads - 1) + 4 + 60 * s.romCount.toNat := by
    rw [sampleBound, hq]
    rfl
  rw [hnow]
  show 4 * (s.par.pollMaxReads - s.pollReads - 1) + 3 + 60 * s.romCount.toNat + 1 ≤ _
  omega

/-- Settles O58: the bound of SAMPLE_START is ten steps, four for each poll read and 60 for each code. -/
theorem sampleAllEndsOnEveryBus : Obligations.SampleAllEndsOnEveryBus := by
  intro s hwf hflow hl hquiet hq
  have hs : Calm s := ⟨hwf, hflow, hl, hquiet⟩
  have hstep := sampleAllResets.1 s (.inl (hs.turn (by simp [hq])).1) hq
  rw [moved_transaction _ hl] at hstep
  obtain ⟨n, t, hn, hrun, -, ⟨hin, hrom, hcount⟩, hidle⟩ := ends_within (m := sampleBound)
    (I := fun u => InSample u ∧ u.rom = s.rom ∧ u.romCount = s.romCount)
    (fun u hu => hu.1.elim (fun ⟨_, h⟩ => .inr (h.imp_left fun ⟨p, hp, _⟩ => ⟨p, hp⟩)) (fun ⟨h, _⟩ => .inl h))
    (fun u p hu ⟨hin, hr, hc⟩ hp => by
      obtain ⟨⟨hin', hr', hc'⟩, hle⟩ := sampleBound_afterOp hu hin hp
      exact ⟨⟨hin', hr'.trans hr, hc'.trans hc⟩, hle⟩)
    (fun u hu ⟨hin, hr, hc⟩ hgap => by
      obtain ⟨v, hv, hcalm, ⟨hin', hr', hc'⟩, hle⟩ := sampleBound_pollGap hu hin hgap
      exact ⟨v, hv, hcalm, ⟨hin', hr'.trans hr, hc'.trans hc⟩, hle⟩)
    (hs.step hstep hquiet) ⟨.inl ⟨rfl, .inl ⟨_, rfl, rfl⟩⟩, rfl, rfl⟩
  have hbound : n ≤ 9 + 4 * s.par.pollMaxReads + 60 * s.romCount.toNat := hn
  obtain ⟨-, hcounts⟩ | ⟨-, hend⟩ := id hin
  · obtain ⟨p, h, -⟩ | h := hcounts <;> rw [hidle] at h <;> cases h
  · rw [hcount] at hend
    refine ⟨n + 1, t, by omega, (run_succ hstep).trans hrun, hidle, hrom, hcount,
      (hend.imp_right And.left).symm, fun hb => ?_⟩
    obtain h | ⟨-, h⟩ := hend
    · exact h
    · rw [hb] at h
      cases h

end Sys2Proof.Machine
end

section
/-! PROOFS. The reference bus with one device: what the elements of a sequence do with it (R103 to R114). -/

namespace Sys2Proof.Machine

/-! ### An element on a bus with one device -/

/-- n slots of a transfer of v, from slot k on, as device d sees and answers them, with the result collected in r. -/
def devSlots (v : Byte) : Nat → Nat → Byte → Device → Device × Byte
  | 0, _, r, d => (d, r)
  | n + 1, k, r, d =>
    let l := v.getLsbD k && d.out
    devSlots v n (k + 1) (setBit r k l) (d.onSlot l)

theorem busSlot_device {m : Bool} {s : State} {d : Device} (h : s.bus = .reference [d]) :
    ∃ o, busSlot m s = (setBus (.reference [d.onSlot (m && d.out)]) s.draws o s, m && d.out) := by
  have hout : devicesOut [d] = d.out := Bool.and_true _
  simp only [busSlot, h, hout]
  exact ⟨_, rfl⟩

theorem slots_device {v : Byte} {n k : Nat} {r : Byte} {s : State} {d : Device} (h : s.bus = .reference [d]) :
    ∃ o, slots v n k r s = (setBus (.reference [(devSlots v n k r d).1]) s.draws o s, (devSlots v n k r d).2) := by
  induction n generalizing k r s d with
  | zero =>
    refine ⟨s.ports.owIn, ?_⟩
    rw [slots, devSlots, ← h]
    rfl
  | succ n ih =>
    obtain ⟨o, hslot⟩ := busSlot_device (m := v.getLsbD k) h
    obtain ⟨o', hrest⟩ := ih (k := k + 1) (r := setBit r k (v.getLsbD k && d.out))
      (s := setBus (.reference [d.onSlot (v.getLsbD k && d.out)]) s.draws o s) rfl
    exact ⟨o', by rw [slots, hslot, hrest]; rfl⟩

/-- A transfer on a bus with one device. -/
theorem elemAct_device {e : Elem} {s : State} {d : Device} (he : elemRst e = false) (h : s.bus = .reference [d]) :
    ∃ o, elemAct e s = (setBus (.reference [(devSlots (elemData e) s.framing.width 0 0#8 d).1]) s.draws o s,
      (devSlots (elemData e) s.framing.width 0 0#8 d).2) := by
  obtain ⟨o, hs⟩ := slots_device (v := elemData e) (n := s.framing.width) (k := 0) (r := 0#8) h
  exact ⟨o, by rw [elemAct, he, if_neg Bool.false_ne_true, hs]⟩

/-- A reset on the reference bus: its result is 1 if there is no device (R89, R106). -/
theorem elemAct_reset {e : Elem} {s : State} {ds : List Device} (he : elemRst e = true) (h : s.bus = .reference ds) :
    elemAct e s = (setBus (.reference (ds.map Device.onReset)) s.draws ds.isEmpty s, zext8 ds.isEmpty) := by
  simp only [elemAct, he, if_true, busReset, h]

/-! ### The course of a transfer -/

theorem devSlots_succ_last (v : Byte) (n k : Nat) (r : Byte) (d : Device) :
    devSlots v (n + 1) k r d =
      let x := devSlots v n k r d
      let l := v.getLsbD (k + n) && x.1.out
      (x.1.onSlot l, setBit x.2 (k + n) l) := by
  induction n generalizing k r d with
  | zero => rfl
  | succ n ih => rw [devSlots, ih, devSlots, Nat.add_right_comm k 1 n, Nat.add_assoc k n 1]

/-- If device d goes through the states D in the slots of v, it ends in the last of them, and each slot with input bit 1
gives what it allowed then. -/
theorem devSlots_course {v : Byte} {n : Nat} {d : Device} {D : Nat → Device} (hn : n ≤ 8) (h0 : D 0 = d)
    (hstep : ∀ k, k < n → (D k).onSlot (v.getLsbD k && (D k).out) = D (k + 1)) :
    (devSlots v n 0 0#8 d).1 = D n ∧
      ∀ j, (devSlots v n 0 0#8 d).2.getLsbD j = (decide (j < n) && (v.getLsbD j && (D j).out)) := by
  induction n with
  | zero => exact ⟨h0.symm, fun j => by simp [devSlots]⟩
  | succ n ih =>
    obtain ⟨hdev, hbits⟩ := ih (by omega) fun k hk => hstep k (by omega)
    rw [devSlots_succ_last, Nat.zero_add]
    dsimp only
    rw [hdev]
    refine ⟨hstep n (by omega), fun j => ?_⟩
    rw [getLsbD_setBit _ (by omega), hbits]
    by_cases hj : j = n
    · simp [hj]
    · simp [hj, show j < n + 1 ↔ j < n by omega]

/-! ### Commands -/

/-- The k lowest bits of c, as a device collects them. -/
def lowBits (c : Byte) : Nat → Byte
  | 0 => 0#8
  | k + 1 => setBit (lowBits c k) k (c.getLsbD k)

theorem getLsbD_lowBits {c : Byte} {k j : Nat} (hk : k ≤ 8) : (lowBits c k).getLsbD j = (decide (j < k) && c.getLsbD j) := by
  induction k with
  | zero => simp [lowBits]
  | succ k ih =>
    rw [lowBits, getLsbD_setBit _ (by omega), ih (by omega)]
    by_cases hj : j = k
    · simp [hj]
    · simp [hj, show j < k + 1 ↔ j < k by omega]

theorem lowBits_all (c : Byte) : lowBits c 8 = c :=
  BitVec.eq_of_getLsbD_eq fun i hi => by rw [getLsbD_lowBits (Nat.le_refl 8), decide_eq_true hi, Bool.true_and]

/-- A device that collects the byte c, after k of its bits. -/
def Device.collecting (d : Device) (c : Byte) (cmd : Byte → Device → Device) (k : Nat) : Device :=
  if k < 8 then { d with sh := lowBits c k, n := k } else cmd c { d with sh := 0, n := 0 }

theorem Device.collect_collecting {d : Device} {c : Byte} {cmd : Byte → Device → Device} {k : Nat} (hk : k < 8) :
    (d.collecting c cmd k).collect (c.getLsbD k) cmd = d.collecting c cmd (k + 1) := by
  rw [collecting, if_pos hk, collect, collecting]
  by_cases hlast : k + 1 = 8
  · obtain rfl : k = 7 := by omega
    have hall : setBit (lowBits c 7) 7 (c.getLsbD 7) = c := lowBits_all c
    dsimp only
    rw [if_pos rfl, if_neg (by decide), hall]
  · dsimp only
    rw [if_neg hlast, if_pos (by omega)]
    rfl

/-- A device that collects a byte takes the one sent to it (R108, R111). -/
theorem devSlots_command {c : Byte} {d : Device} {cmd : Byte → Device → Device} (hsh : d.sh = 0) (hn : d.n = 0)
    (hout : ∀ sh n, ({ d with sh := sh, n := n } : Device).out = true)
    (hslot : ∀ l sh n, ({ d with sh := sh, n := n } : Device).onSlot l =
      ({ d with sh := sh, n := n } : Device).collect l cmd) :
    (devSlots c 8 0 0#8 d).1 = cmd c d := by
  have hstart : ({ d with sh := 0, n := 0 } : Device) = d := by rw [← hsh, ← hn]
  have hcourse := devSlots_course (v := c) (D := d.collecting c cmd) (Nat.le_refl 8) hstart fun k hk => ?_
  · exact hcourse.1.trans (congrArg (cmd c) hstart)
  · have hk' : d.collecting c cmd k = { d with sh := lowBits c k, n := k } := if_pos hk
    rw [← Device.collect_collecting hk, hk', hout, Bool.and_true, hslot]

theorem devSlots_romCommand {c : Byte} {d : Device} (hst : d.state = .romCmd) (hsh : d.sh = 0) (hn : d.n = 0) :
    (devSlots c 8 0 0#8 d).1 = d.romCommand c :=
  devSlots_command hsh hn (fun sh n => by simp [Device.out, hst]) fun l sh n => by simp [Device.onSlot, hst]

theorem devSlots_funcCommand {c : Byte} {d : Device} (hst : d.state = .funcCmd) (hsh : d.sh = 0) (hn : d.n = 0) :
    (devSlots c 8 0 0#8 d).1 = d.funcCommand c :=
  devSlots_command hsh hn (fun sh n => by simp [Device.out, hst]) fun l sh n => by simp [Device.onSlot, hst]

/-! ### Reads -/

/-- A converting device answers a poll byte: every slot brings the end one nearer, and the bits are 1 from then on (R112). -/
theorem devSlots_conv {d : Device} (hst : d.state = .conv) :
    (devSlots 0xFF#8 8 0 0#8 d).1 = { d with busy := d.busy - 8 } ∧
      ((devSlots 0xFF#8 8 0 0#8 d).2 = 0xFF#8 ↔ d.busy = 0) := by
  obtain ⟨hdev, hbits⟩ := devSlots_course (v := 0xFF#8) (d := d) (D := fun k => { d with busy := d.busy - k })
    (Nat.le_refl 8) rfl
    fun k hk => by simp only [Device.onSlot, hst, Nat.sub_sub]
  refine ⟨hdev, fun h => ?_, fun h => BitVec.eq_of_getLsbD_eq fun j hj => ?_⟩
  · have h0 := hbits 0
    rw [h] at h0
    simpa [Device.out, hst] using h0
  · rw [hbits]
    simp [Device.out, hst, h, hj]

/-- A device that sends its Scratchpad gives byte j of it (R113). -/
theorem devSlots_readSp {d : Device} {j : Nat} (hst : d.state = .readSp) (hi : d.i = 8 * j) (hj : j < 9) :
    (devSlots 0xFF#8 8 0 0#8 d).1 = { d with i := 8 * (j + 1) } ∧
      (devSlots 0xFF#8 8 0 0#8 d).2 = d.sp.getD j 0xFF#8 := by
  obtain ⟨hdev, hbits⟩ := devSlots_course (v := 0xFF#8) (d := d) (D := fun k => { d with i := 8 * j + k }) (Nat.le_refl 8)
    (by rw [← hi]; rfl) fun k hk => by simp only [Device.onSlot, hst]; rfl
  refine ⟨hdev, BitVec.eq_of_getLsbD_eq fun k hk => ?_⟩
  have hff : ∀ i, i < 8 → (0xFF#8).getLsbD i = true := by decide
  rw [hbits, decide_eq_true hk, hff k hk]
  simp only [Device.out, hst, Bool.true_and]
  rw [if_pos (by omega), show (8 * j + k) / 8 = j by omega, show (8 * j + k) % 8 = k by omega]

/-- A device in MATCH_ROM of which i bits of the code have matched (R110). -/
def Device.matchedTo (d : Device) (i : Nat) : Device :=
  if i = 64 then { d with state := .funcCmd, i := i, sh := 0, n := 0 } else { d with i := i }

/-- A device in MATCH_ROM follows its own code, byte j of it after the bytes before (R110). -/
theorem devSlots_matchRom {d : Device} {j : Nat} (hst : d.state = .matchRom) (hi : d.i = 8 * j) (hj : j < 8) :
    (devSlots (romByte d.rom j) 8 0 0#8 d).1 = d.matchedTo (8 * (j + 1)) := by
  refine (devSlots_course (D := fun k => d.matchedTo (8 * j + k)) (Nat.le_refl 8) ?_ fun k hk => ?_).1
  · rw [Device.matchedTo, if_neg (by omega), Nat.add_zero, ← hi]
  · have hnow : d.matchedTo (8 * j + k) = { d with i := 8 * j + k } := if_neg (by omega)
    have hout : (d.matchedTo (8 * j + k)).out = true := by
      rw [hnow]
      simp [Device.out, hst]
    have hslot : ({ d with i := 8 * j + k } : Device).onSlot (d.rom.getLsbD (8 * j + k)) =
        ({ d with i := 8 * j + k } : Device).matched := by
      simp [Device.onSlot, hst]
    rw [hout, Bool.and_true, romByte_getLsbD _ _ hk, hnow, hslot, Device.matched, Device.matchedTo]
    rfl

end Sys2Proof.Machine
end

section
/-! PROOFS. DISCOVER on the reference bus with no device and with one (R106 to R109, R230 to R246). -/

namespace Sys2Proof.Machine

/-! ### An operation on a bus with one device -/

/-- s with the bus of device d alone, and o in `ow_in`. -/
def withDevice (d : Device) (o : Bool) (s : State) : State := setBus (.reference [d]) s.draws o s

/-- What an operation that is a transfer leaves on a bus with device d. -/
theorem afterOp_device {p : Place} {s : State} {d : Device} {x : Device × Byte} (hp : p.isReset = false)
    (hbus : s.bus = .reference [d]) (hx : devSlots (elemData (placeElem p s)) s.framing.width 0 0#8 d = x) :
    ∃ o, afterOp p s = reframed (popFraming p x.2 (withDevice x.1 o s))
      (afterPop (pollExhausted s) p x.2 (withDevice x.1 o s)) := by
  obtain ⟨o, h⟩ := elemAct_device (e := placeElem p s) ((placeElem_isReset p s).trans hp) hbus
  rw [hx] at h
  exact ⟨o, by rw [afterOp, h]; rfl⟩

/-- What an operation that is a reset leaves on the reference bus. -/
theorem afterOp_reset {p : Place} {s : State} {ds : List Device} (hp : p.isReset = true) (hbus : s.bus = .reference ds) :
    afterOp p s = afterPop (pollExhausted s) p (zext8 ds.isEmpty)
      (setBus (.reference (ds.map Device.onReset)) s.draws ds.isEmpty s) := by
  have hframe : ∀ (r : Byte) (u : State), popFraming p r u = none := by
    cases p
    case passReset | sampleReset | devReset => exact fun _ _ => rfl
    all_goals cases hp
  rw [afterOp, elemAct_reset ((placeElem_isReset p s).trans hp) hbus, hframe]
  rfl

/-- One slot of a device. -/
theorem devSlots_one (v : Byte) (d : Device) :
    devSlots v 1 0 0#8 d = (d.onSlot (v.getLsbD 0 && d.out), setBit 0#8 0 (v.getLsbD 0 && d.out)) := rfl

theorem getLsbD_setBit_zero (b : Bool) : (setBit 0#8 0 b).getLsbD 0 = b := by cases b <;> rfl

theorem elemData_bitElem_zero (b : Bool) : (elemData (bitElem b)).getLsbD 0 = b := by cases b <;> rfl

/-- The framing at a place between two operations. -/
theorem Calm.framing {s : State} {p : Place} (hs : Calm s) (hq : s.seq = .push p) : s.framing = (Seq.push p).framing := by
  obtain ⟨-, -, hframe, -⟩ := flowOk_iff.mp hs.2.1
  rw [hframe, hq]

/-! ### One device: the positions of the pass -/

/-- A search that has found the code of device d up to position i, at the push of p; the device has given ph of the two bits
of its pair (R109, R234). -/
structure Searching (d : Device) (p : Place) (ph i : Nat) (s : State) : Prop where
  calm : Calm s
  seq : s.seq = .push p
  bus : ∃ e, s.bus = .reference [e] ∧ e.state = .search ∧ e.rom = d.rom ∧ e.i = i ∧ e.ph = ph
  pos : s.rs.i.toNat = i
  code : ∀ j, j < i → s.rs.rom.getLsbD j = d.rom.getLsbD j
  first : p = .readB2 → s.rs.b1 = d.rom.getLsbD i
  dir : p = .writeDir → s.rs.dir = d.rom.getLsbD i
  new : s.rs.new = none
  rest : s.romCount = 0 ∧ s.rdgCount = 0 ∧ s.presence = true ∧ s.flags = .clear

/-- The first bit of the pair is the device's bit. -/
theorem Searching.readB1 {d : Device} {i : Nat} {s : State} (h : Searching d .readB1 0 i s) :
    run 3 s = .next (afterOp .readB1 s) ∧ Searching d .readB2 1 i (afterOp .readB1 s) := by
  obtain ⟨hrun, hcalm⟩ := h.calm.op h.seq
  obtain ⟨e, hbus, hst, hrom, hi, hph⟩ := h.bus
  have hw : s.framing.width = 1 := congrArg Framing.width (h.calm.framing h.seq)
  have hout : e.out = d.rom.getLsbD i := by simp [Device.out, hst, hph, hrom, hi]
  have hslot : ∀ l, e.onSlot l = { e with ph := 1 } := fun l => by simp [Device.onSlot, hst, hph]
  have hx : devSlots (elemData (placeElem .readB1 s)) s.framing.width 0 0#8 e =
      ({ e with ph := 1 }, setBit 0#8 0 (d.rom.getLsbD i)) := by
    rw [hw, devSlots_one, placeElem, elemData_bitElem_zero, hout, hslot, Bool.true_and]
  obtain ⟨o, hop⟩ := afterOp_device rfl hbus hx
  rw [hop] at hrun hcalm ⊢
  exact ⟨hrun, hcalm, rfl, ⟨_, rfl, hst, hrom, hi, rfl⟩, h.pos, h.code, fun _ => getLsbD_setBit_zero _, nofun, h.new, h.rest⟩

/-- A pair of different bits gives the direction and no marker (R236). -/
theorem afterPop_readB2_differ {ex : Bool} {r : Byte} {s : State} (h : s.rs.b1 ≠ r.getLsbD 0) :
    popFraming .readB2 r s = none ∧ afterPop ex .readB2 r s =
      { s with rs := { s.rs with b2 := r.getLsbD 0, dir := s.rs.b1 }, seq := .push .writeDir } := by
  have hboth : (s.rs.b1 && r.getLsbD 0) ≠ true := fun hb => by
    obtain ⟨h1, h2⟩ := Bool.and_eq_true_iff.mp hb
    exact h (h1.trans h2.symm)
  refine ⟨if_neg hboth, (if_neg hboth).trans ?_⟩
  have hchoose : chooseDir { s.rs with b2 := r.getLsbD 0 } = { s.rs with b2 := r.getLsbD 0, dir := s.rs.b1 } := if_pos h
  rw [hchoose]

/-- The second bit is its complement, so that the direction is the device's bit. -/
theorem Searching.readB2 {d : Device} {i : Nat} {s : State} (h : Searching d .readB2 1 i s) :
    run 3 s = .next (afterOp .readB2 s) ∧ Searching d .writeDir 2 i (afterOp .readB2 s) := by
  obtain ⟨hrun, hcalm⟩ := h.calm.op h.seq
  obtain ⟨e, hbus, hst, hrom, hi, hph⟩ := h.bus
  have hw : s.framing.width = 1 := congrArg Framing.width (h.calm.framing h.seq)
  have hout : e.out = !d.rom.getLsbD i := by simp [Device.out, hst, hph, hrom, hi]
  have hslot : ∀ l, e.onSlot l = { e with ph := 2 } := fun l => by simp [Device.onSlot, hst, hph]
  have hx : devSlots (elemData (placeElem .readB2 s)) s.framing.width 0 0#8 e =
      ({ e with ph := 2 }, setBit 0#8 0 (!d.rom.getLsbD i)) := by
    rw [hw, devSlots_one, placeElem, elemData_bitElem_zero, hout, hslot, Bool.true_and]
  obtain ⟨o, hop⟩ := afterOp_device rfl hbus hx
  obtain ⟨hnone, hpop⟩ := afterPop_readB2_differ (ex := pollExhausted s) (r := setBit 0#8 0 (!d.rom.getLsbD i))
    (s := withDevice { e with ph := 2 } o s) (by
      rw [getLsbD_setBit_zero]
      exact fun hb => Bool.not_ne_self _ ((h.first rfl).symm.trans hb).symm)
  rw [hop, hnone, hpop] at hrun hcalm
  rw [hop, hnone, hpop]
  exact ⟨hrun, hcalm, rfl, ⟨_, rfl, hst, hrom, hi, rfl⟩, h.pos, h.code, nofun, fun _ => h.first rfl, h.new, h.rest⟩

/-- The device at the slot of the direction, which is its own bit: it stays in the search (R109). -/
theorem Searching.writeDir_device {d : Device} {i : Nat} {s : State} (h : Searching d .writeDir 2 i s) :
    ∃ e r o, (i ≠ 63 → e.state = .search) ∧ e.rom = d.rom ∧ e.i = i + 1 ∧ e.ph = 0 ∧
      afterOp .writeDir s = reframed (popFraming .writeDir r (withDevice e o s))
        (afterPop (pollExhausted s) .writeDir r (withDevice e o s)) := by
  obtain ⟨e, hbus, hst, hrom, hi, hph⟩ := h.bus
  have hw : s.framing.width = 1 := congrArg Framing.width (h.calm.framing h.seq)
  have hout : e.out = true := by simp [Device.out, hst, hph]
  have hslot : e.onSlot (d.rom.getLsbD i) = { e.matched with ph := 0 } := by simp [Device.onSlot, hst, hph, hrom, hi]
  have hx : devSlots (elemData (placeElem .writeDir s)) s.framing.width 0 0#8 e =
      ({ e.matched with ph := 0 }, setBit 0#8 0 (d.rom.getLsbD i)) := by
    rw [hw, devSlots_one, placeElem, elemData_bitElem_zero, h.dir rfl, hout, Bool.and_true, hslot]
  obtain ⟨o, hop⟩ := afterOp_device rfl hbus hx
  have hmatched : (i ≠ 63 → e.matched.state = .search) ∧ e.matched.rom = d.rom ∧ e.matched.i = i + 1 := by
    unfold Device.matched
    split
    · exact ⟨fun h63 => by omega, hrom, congrArg (· + 1) hi⟩
    · exact ⟨fun _ => hst, hrom, congrArg (· + 1) hi⟩
  obtain ⟨hstate, hrom', hi'⟩ := hmatched
  exact ⟨{ e.matched with ph := 0 }, _, o, hstate, hrom', hi', rfl, hop⟩

/-- The code found so far and the bit just written (R240). -/
theorem Searching.code_succ {d : Device} {i : Nat} {s : State} (h : Searching d .writeDir 2 i s) (hi : i < 64) :
    ∀ j, j < i + 1 → (takeDir s.rs).rom.getLsbD j = d.rom.getLsbD j := by
  intro j hj
  rw [takeDir_getLsbD (by rw [h.pos]; exact hi), h.pos]
  split
  · next hji => rw [hji, h.dir rfl]
  · exact h.code j (by omega)

/-- Before position 63 the next pair follows. -/
theorem Searching.writeDir {d : Device} {i : Nat} {s : State} (h : Searching d .writeDir 2 i s) (hi : i < 63) :
    run 3 s = .next (afterOp .writeDir s) ∧ Searching d .readB1 0 (i + 1) (afterOp .writeDir s) := by
  obtain ⟨hrun, hcalm⟩ := h.calm.op h.seq
  obtain ⟨e, r, o, hst, hrom, hi', hph, hop⟩ := h.writeDir_device
  have hpos : (withDevice e o s).rs.i.toNat = i := h.pos
  rw [hop, popFraming_writeDir (by omega), if_pos (by omega), afterPop_writeDir_lt (by omega)] at hrun hcalm
  rw [hop, popFraming_writeDir (by omega), if_pos (by omega), afterPop_writeDir_lt (by omega)]
  have hsucc : (s.rs.i + 1).toNat = i + 1 := (toNat_succ7 (by rw [h.pos]; omega)).trans (congrArg (· + 1) h.pos)
  exact ⟨hrun, hcalm, rfl, ⟨e, rfl, hst (by omega), hrom, hi', hph⟩, hsucc,
    h.code_succ (by omega), nofun, nofun, h.new, h.rest⟩

/-- A position takes nine steps. -/
theorem Searching.position {d : Device} {i : Nat} {s : State} (h : Searching d .readB1 0 i s) (hi : i < 63) :
    ∃ t, run 9 s = .next t ∧ Searching d .readB1 0 (i + 1) t := by
  obtain ⟨hrun1, h1⟩ := h.readB1
  obtain ⟨hrun2, h2⟩ := h1.readB2
  obtain ⟨hrun3, h3⟩ := h2.writeDir hi
  exact ⟨_, run_trans hrun1 (run_trans hrun2 hrun3), h3⟩

theorem Searching.positions {d : Device} {i n : Nat} {s : State} (h : Searching d .readB1 0 i s) (hn : i + n ≤ 63) :
    ∃ t, run (9 * n) s = .next t ∧ Searching d .readB1 0 (i + n) t := by
  induction n with
  | zero => exact ⟨s, rfl, h⟩
  | succ n ih =>
    obtain ⟨t, hrun, ht⟩ := ih (by omega)
    obtain ⟨u, hrun', hu⟩ := ht.position (by omega)
    exact ⟨u, run_trans hrun hrun', hu⟩

/-! ### Start and end of the pass -/

/-- The last position ends the search: no marker was set (R241, R242). -/
theorem Searching.last {d : Device} {s : State} (h : Searching d .writeDir 2 63 s) :
    ∃ t, run 3 s = .next t ∧ t.seq = .hostIdle ∧ t.romCount = 1 ∧ t.rom[0]? = some d.rom ∧ t.rdgCount = 0 ∧
      t.presence = true ∧ t.rs.new = none ∧ t.flags = .clear := by
  obtain ⟨hrun, -⟩ := h.calm.op h.seq
  obtain ⟨e, r, o, -, -, -, -, hop⟩ := h.writeDir_device
  obtain ⟨⟨-, -, ⟨hn, -⟩, -⟩, ⟨⟨hlen, -⟩, -⟩, -⟩ := wf_iff.mp h.calm.1
  obtain ⟨hcount, hrdg, hpres, hflags⟩ := h.rest
  have hcode : (takeDir s.rs).rom = d.rom := BitVec.eq_of_getLsbD_eq fun j hj => h.code_succ (by decide) j hj
  have hpos : (withDevice e o s).rs.i.toNat = 63 := h.pos
  obtain ⟨-, hrec⟩ | ⟨hnew, -⟩ | ⟨hnew, -⟩ := recordPass_cases { withDevice e o s with rs := takeDir s.rs }
  · have hlast : afterPop (pollExhausted s) .writeDir r (withDevice e o s) =
        recordPass { withDevice e o s with rs := takeDir s.rs } := afterPop_writeDir_last hpos
    rw [hop, popFraming_writeDir (by omega), if_neg (by omega), hlast, hrec] at hrun
    refine ⟨_, hrun, rfl, congrArg (· + 1) hcount, ?_, hrdg, hpres, h.new, hflags⟩
    have hset : (s.rom.set s.romCount.toNat (takeDir s.rs).rom)[0]? = some d.rom := by
      rw [hcount, hcode]
      exact List.getElem?_set_self (i := 0) (by omega)
    exact hset
  · exact absurd h.new hnew
  · exact absurd h.new hnew

theorem afterPop_passReset_low {ex : Bool} {r : Byte} {s : State} (h : r.getLsbD 0 = false) :
    afterPop ex .passReset r s = { s with presence := true, seq := .push .searchCmd } := by
  simp only [afterPop, raiseIf, setPresence, h]
  rfl

/-- The RESET of the pass finds the device, the search command starts its search (R106, R108, R231 to R233). -/
theorem searching_start {d : Device} {s : State} (hs : Calm s) (hq : s.seq = .push .passReset)
    (hbus : s.bus = .reference [d]) (hrest : s.romCount = 0 ∧ s.rdgCount = 0 ∧ s.flags = .clear) :
    ∃ t, run 6 s = .next t ∧ Searching d .readB1 0 0 t := by
  obtain ⟨hrun, hcalm⟩ := hs.op hq
  obtain ⟨hcount, hrdg, hflags⟩ := hrest
  have hreset : afterOp .passReset s = { withDevice d.onReset false s with presence := true, seq := .push .searchCmd } :=
    (afterOp_reset (p := .passReset) rfl hbus).trans (afterPop_passReset_low (zext8_bit_zero false))
  rw [hreset] at hrun hcalm
  generalize hu : ({ withDevice d.onReset false s with presence := true, seq := .push .searchCmd } : State) = u
    at hrun hcalm
  have hq' : u.seq = .push .searchCmd := by rw [← hu]
  have hw : u.framing.width = 8 := congrArg Framing.width (hcalm.framing hq')
  obtain ⟨hrun', hcalm'⟩ := hcalm.op hq'
  have hcmd : (devSlots (elemData (placeElem .searchCmd u)) u.framing.width 0 0#8 d.onReset).1 =
      { d.onReset with state := .search, i := 0, ph := 0 } := by
    rw [hw, placeElem, elemData_byteElem, devSlots_romCommand rfl rfl rfl]
    rfl
  have hbus' : u.bus = .reference [d.onReset] := by rw [← hu]; rfl
  obtain ⟨o, hop⟩ := afterOp_device (p := .searchCmd) rfl hbus' rfl
  rw [hcmd] at hop
  rw [hop] at hrun' hcalm'
  refine ⟨_, run_trans hrun hrun', hcalm', rfl, ⟨_, rfl, rfl, rfl, rfl, rfl⟩, rfl,
    fun j hj => absurd hj (Nat.not_lt_zero j), nofun, nofun, rfl, ?_⟩
  subst hu
  exact ⟨hcount, hrdg, rfl, hflags⟩

/-- Settles O59: without a device the RESET fails; with one the pairs are never (0,0) and the directions are its code. -/
theorem discoverOnNoneOrOneDevice : Obligations.DiscoverOnNoneOrOneDevice := by
  intro s hwf hflow hl hquiet hq hflags
  have hs : Calm s := ⟨hwf, hflow, hl, hquiet⟩
  have hstep := discoverStartsAfresh s (.inl (hs.turn (by simp [hq])).1) hq
  rw [moved_transaction _ hl] at hstep
  have hs' := hs.step hstep hquiet
  refine ⟨fun hbus => ?_, fun d hbus => ?_⟩
  · obtain ⟨hrun, -⟩ := hs'.op (p := .passReset) rfl
    rw [afterOp_reset rfl (by exact hbus)] at hrun
    refine ⟨_, (run_succ hstep).trans hrun, rfl, rfl, rfl, rfl, ?_⟩
    exact congrArg (Flags.set · .busFault) hflags
  · obtain ⟨t, hrun, ht⟩ := searching_start (d := d) hs' rfl hbus ⟨rfl, rfl, hflags⟩
    obtain ⟨u, hrun', hu⟩ := ht.positions (n := 63) (by omega)
    obtain ⟨hrun1, h1⟩ := hu.readB1
    obtain ⟨hrun2, h2⟩ := h1.readB2
    obtain ⟨v, hrun3, hv⟩ := h2.last
    have hpass : run (6 + (9 * 63 + (3 + (3 + 3)))) _ = .next v :=
      run_trans hrun (run_trans hrun' (run_trans hrun1 (run_trans hrun2 hrun3)))
    exact ⟨v, (run_succ hstep).trans hpass, hv⟩

end Sys2Proof.Machine
end

section
/-! PROOFS. SAMPLE_ALL on the reference bus with the one device that the table names (R108 to R114, R261 to R275). -/

namespace Sys2Proof.Machine

/-! ### Places with a device -/

/-- SAMPLE_ALL at the push of p with the device d on the bus, its constants unchanged and its variables as P says. -/
structure Sampling (d : Device) (p : Place) (P : Device → State → Prop) (s : State) : Prop where
  calm : Calm s
  seq : s.seq = .push p
  bus : ∃ e, s.bus = .reference [e] ∧ (e.rom = d.rom ∧ e.sp = d.sp ∧ e.conv = d.conv) ∧ P e s
  table : s.romCount = 1 ∧ s.rom[0]? = some d.rom
  flags : s.flags = .clear
  bound : d.conv ≤ 8 * (s.par.pollMaxReads - 1)

/-- A transfer of SAMPLE_ALL: the device goes through its slots and CONTROLLER uses the result. -/
theorem Sampling.transfer {d : Device} {p : Place} {P : Device → State → Prop} {s : State} (h : Sampling d p P s)
    (hp : p.isReset = false) (hw : (Seq.push p).framing = .w8) (hnone : ∀ r u, popFraming p r u = none) :
    ∃ e o, (e.rom = d.rom ∧ e.sp = d.sp ∧ e.conv = d.conv) ∧ P e s ∧
      ∀ {v e' r}, elemData (placeElem p s) = v → (devSlots v 8 0 0#8 e).1 = e' → (devSlots v 8 0 0#8 e).2 = r →
        run 3 s = .next (afterPop (pollExhausted s) p r (withDevice e' o s)) ∧
        Calm (afterPop (pollExhausted s) p r (withDevice e' o s)) := by
  obtain ⟨e, hbus, hconst, hP⟩ := h.bus
  have hwidth : s.framing.width = 8 := congrArg Framing.width ((h.calm.framing h.seq).trans hw)
  obtain ⟨o, hop⟩ := afterOp_device hp hbus rfl
  rw [hwidth, hnone] at hop
  refine ⟨e, o, hconst, hP, ?_⟩
  rintro v e' r rfl rfl rfl
  have hrun := h.calm.op h.seq
  rw [hop] at hrun
  exact hrun

/-- A device that waits for its first command bit. -/
abbrev Waiting (st : DevState) (e : Device) : Prop := e.state = st ∧ e.sh = 0 ∧ e.n = 0

/-- The first RESET finds the device (R261 step 1). -/
theorem Sampling.sampleReset {d : Device} {P : Device → State → Prop} {s : State} (h : Sampling d .sampleReset P s) :
    ∃ t, run 3 s = .next t ∧ Sampling d .addrAll (fun e _ => Waiting .romCmd e) t := by
  obtain ⟨e, hbus, hconst, -⟩ := h.bus
  have hop : afterOp .sampleReset s = { withDevice e.onReset false s with presence := true, seq := .push .addrAll } := by
    rw [afterOp_reset rfl hbus]
    have hlow : (zext8 [e].isEmpty).getLsbD 0 = false := zext8_bit_zero false
    simp only [afterPop, raiseIf, setPresence, hlow]
    rfl
  obtain ⟨hrun, hcalm⟩ := h.calm.op h.seq
  rw [hop] at hrun hcalm
  exact ⟨_, hrun, hcalm, rfl, ⟨_, rfl, hconst, rfl, rfl, rfl⟩, h.table, h.flags, h.bound⟩

/-- address-all selects it (R108, R262). -/
theorem Sampling.addrAll {d : Device} {s : State} (h : Sampling d .addrAll (fun e _ => Waiting .romCmd e) s) :
    ∃ t, run 3 s = .next t ∧ Sampling d .startConv (fun e _ => Waiting .funcCmd e) t := by
  obtain ⟨e, o, hconst, ⟨hst, hsh, hn⟩, hx⟩ := h.transfer rfl rfl fun _ _ => rfl
  have hdev : (devSlots 0xCC#8 8 0 0#8 e).1 = { e with state := .funcCmd } := devSlots_romCommand hst hsh hn
  obtain ⟨hrun, hcalm⟩ := hx rfl hdev rfl
  exact ⟨_, hrun, hcalm, rfl, ⟨_, rfl, hconst, rfl, hsh, hn⟩, h.table, h.flags, h.bound⟩

/-- The device converts; c reads of the poll have been made (R111, R112). -/
abbrev Converting (d : Device) (e : Device) (s : State) : Prop := e.state = .conv ∧ e.busy = d.conv - 8 * s.pollReads

/-- start-conversion starts its conversion (R263). -/
theorem Sampling.startConv {d : Device} {s : State} (h : Sampling d .startConv (fun e _ => Waiting .funcCmd e) s) :
    ∃ t, run 3 s = .next t ∧ Sampling d .pollRead (Converting d) t := by
  obtain ⟨e, o, hconst, ⟨hst, hsh, hn⟩, hx⟩ := h.transfer rfl rfl fun _ _ => rfl
  have hdev : (devSlots 0x44#8 8 0 0#8 e).1 = { e with state := .conv, busy := e.conv } :=
    devSlots_funcCommand hst hsh hn
  obtain ⟨hrun, hcalm⟩ := hx rfl hdev rfl
  exact ⟨_, hrun, hcalm, rfl, ⟨_, rfl, hconst, rfl, hconst.2.2⟩, h.table, h.flags, h.bound⟩

/-! ### The poll -/

/-- A poll read of a device that has ended its conversion is 0xFF and ends the poll (R264, R265). -/
theorem Sampling.pollRead_done {d : Device} {s : State} (h : Sampling d .pollRead (Converting d) s)
    (hdone : d.conv ≤ 8 * s.pollReads) :
    ∃ t, run 3 s = .next t ∧ Sampling d .devReset (fun _ u => u.dm.k = 0) t := by
  obtain ⟨e, o, hconst, ⟨hst, hbusy⟩, hx⟩ := h.transfer rfl rfl fun _ _ => rfl
  obtain ⟨hdev, hff⟩ := devSlots_conv hst
  obtain ⟨hrun, hcalm⟩ := hx rfl hdev (hff.mpr (by omega))
  have hne : (0 : BitVec 7) ≠ s.romCount := by
    rw [h.table.1]
    decide
  have hend : afterPop (pollExhausted s) .pollRead 0xFF#8 (withDevice { e with busy := e.busy - 8 } o s) =
      { withDevice { e with busy := e.busy - 8 } o s with dm := { s.dm with k := 0 }, seq := .push .devReset } := by
    have hall : afterPop (pollExhausted s) .pollRead 0xFF#8 (withDevice { e with busy := e.busy - 8 } o s) =
        atReadAll (withDevice { e with busy := e.busy - 8 } o s) := by
      simp only [afterPop, if_true]
    rw [hall, atReadAll, atDev_next (by exact hne)]
    rfl
  rw [hend] at hrun hcalm
  exact ⟨_, hrun, hcalm, rfl, ⟨_, rfl, hconst, rfl⟩, h.table, h.flags, h.bound⟩

/-- A poll read of a device that converts still is no 0xFF; it leaves the budget, and the read after the gap finds the
conversion eight slots further (R264). -/
theorem Sampling.pollRead_busy {d : Device} {s : State} (h : Sampling d .pollRead (Converting d) s)
    (hbusy : 8 * s.pollReads < d.conv) :
    ∃ t, run 4 s = .next t ∧ Sampling d .pollRead (Converting d) t ∧ t.pollReads = s.pollReads + 1 := by
  have hbound := h.bound
  obtain ⟨e, o, hconst, ⟨hst, hb⟩, hx⟩ := h.transfer rfl rfl fun _ _ => rfl
  obtain ⟨hdev, hff⟩ := devSlots_conv hst
  obtain ⟨hrun, hcalm⟩ := hx (v := 0xFF#8) rfl hdev rfl
  have hleft : pollExhausted s = false := decide_eq_false (by omega)
  have hgap : afterPop (pollExhausted s) .pollRead (devSlots 0xFF#8 8 0 0#8 e).2
      (withDevice { e with busy := e.busy - 8 } o s) = { withDevice { e with busy := e.busy - 8 } o s with
        dm := { s.dm with gapT := BitVec.ofNat 14 s.par.tPollGap }, pollReads := s.pollReads + 1, seq := .pollGap } := by
    rw [hleft]
    exact (if_neg fun hr => by have := hff.mp hr; omega).trans rfl
  rw [hgap] at hrun hcalm
  obtain ⟨hturn, -⟩ := hcalm.turn (by simp)
  have hstep := step_pollGap (.inl hturn) rfl (.inl hturn.1)
  rw [moved_transaction _ hturn.1] at hstep
  refine ⟨_, run_trans hrun (run_succ (k := 0) hstep),
    ⟨hcalm.step hstep hcalm.2.2.2, rfl, ⟨_, rfl, hconst, hst, ?_⟩, h.table, h.flags, h.bound⟩, rfl⟩
  show e.busy - 8 = d.conv - 8 * (s.pollReads + 1)
  omega

/-- The poll ends with the conversion (R264, R265). -/
theorem Sampling.poll {d : Device} {s : State} (h : Sampling d .pollRead (Converting d) s) :
    ∃ n t, run n s = .next t ∧ Sampling d .devReset (fun _ u => u.dm.k = 0) t := by
  induction hm : d.conv - 8 * s.pollReads using Nat.strong_induction_on generalizing s with
  | _ m ih =>
    by_cases hdone : d.conv ≤ 8 * s.pollReads
    · exact ⟨3, h.pollRead_done hdone⟩
    · obtain ⟨u, hrun, hu, hcount⟩ := h.pollRead_busy (by omega)
      obtain ⟨n, t, hrun', ht⟩ := ih _ (by omega) hu rfl
      exact ⟨4 + n, t, run_trans hrun hrun', ht⟩

/-! ### The device's read -/

/-- The RESET of the device's read (R266). -/
theorem Sampling.devReset {d : Device} {s : State} (h : Sampling d .devReset (fun _ u => u.dm.k = 0) s) :
    ∃ t, run 3 s = .next t ∧ Sampling d .addrOne (fun e u => Waiting .romCmd e ∧ u.dm.k = 0) t := by
  obtain ⟨e, hbus, hconst, hk⟩ := h.bus
  obtain ⟨hrun, hcalm⟩ := h.calm.op h.seq
  rw [afterOp_reset rfl hbus] at hrun hcalm
  exact ⟨_, hrun, hcalm, rfl, ⟨_, rfl, hconst, ⟨rfl, rfl, rfl⟩, hk⟩, h.table, h.flags, h.bound⟩

/-- The device is being addressed: it follows the j bytes of its code sent so far (R110, R267). -/
abbrev Addressing (j : Nat) (e : Device) (u : State) : Prop :=
  (e.state = .matchRom ∧ e.i = 8 * j) ∧ u.dm.k = 0 ∧ u.dm.j.toNat = j

/-- address-one (R267). -/
theorem Sampling.addrOne {d : Device} {s : State}
    (h : Sampling d .addrOne (fun e u => Waiting .romCmd e ∧ u.dm.k = 0) s) :
    ∃ t, run 3 s = .next t ∧ Sampling d .addrByte (Addressing 0) t := by
  obtain ⟨e, o, hconst, ⟨⟨hst, hsh, hn⟩, hk⟩, hx⟩ := h.transfer rfl rfl fun _ _ => rfl
  have hdev : (devSlots 0x55#8 8 0 0#8 e).1 = { e with state := .matchRom, i := 0 } := devSlots_romCommand hst hsh hn
  obtain ⟨hrun, hcalm⟩ := hx rfl hdev rfl
  exact ⟨_, hrun, hcalm, rfl, ⟨_, rfl, hconst, ⟨rfl, rfl⟩, hk, rfl⟩, h.table, h.flags, h.bound⟩

/-- The byte of the code that is sent is the device's (R267). -/
theorem Sampling.addrByte_data {d : Device} {j : Nat} {s : State} (h : Sampling d .addrByte (Addressing j) s) :
    elemData (placeElem .addrByte s) = romByte d.rom j := by
  obtain ⟨e, -, -, -, hk, hj⟩ := h.bus
  have hzero : s.dm.k.toNat = 0 := by rw [hk]; rfl
  rw [placeElem, elemData_byteElem, hzero, hj, romEntry_of_getElem? h.table.2]

theorem afterPop_addrByte {ex : Bool} {r : Byte} {s : State} {j : Nat} (hj : s.dm.j.toNat = j) (hlt : j < 8) :
    afterPop ex .addrByte r s = { s with
      dm := { s.dm with j := s.dm.j + 1 }, seq := if j = 7 then .push .readCmd else .push .addrByte } := by
  have hsucc := toNat_succ4 (v := s.dm.j) (by omega)
  by_cases h7 : j = 7
  · have hnot : ¬(s.dm.j + 1).toNat < 8 := by omega
    simp only [afterPop, if_neg hnot, if_pos h7]
  · have hnext : (s.dm.j + 1).toNat < 8 := by omega
    simp only [afterPop, if_pos hnext, if_neg h7]

/-- Before the last byte of the code the next one follows. -/
theorem Sampling.addrByte {d : Device} {j : Nat} {s : State} (h : Sampling d .addrByte (Addressing j) s) (hj : j < 7) :
    ∃ t, run 3 s = .next t ∧ Sampling d .addrByte (Addressing (j + 1)) t := by
  have hdata := h.addrByte_data
  obtain ⟨e, o, hconst, ⟨⟨hst, hi⟩, hk, hj'⟩, hx⟩ := h.transfer rfl rfl fun _ _ => rfl
  have hdev := devSlots_matchRom hst hi (show j < 8 by omega)
  rw [hconst.1, Device.matchedTo, if_neg (by omega)] at hdev
  obtain ⟨hrun, hcalm⟩ := hx hdata hdev rfl
  rw [afterPop_addrByte (s := withDevice _ o s) hj' (by omega), if_neg (by omega)] at hrun hcalm
  have hsucc : (s.dm.j + 1).toNat = j + 1 := (toNat_succ4 (by omega)).trans (congrArg (· + 1) hj')
  exact ⟨_, hrun, hcalm, rfl, ⟨_, rfl, hconst, ⟨hst, rfl⟩, hk, hsucc⟩, h.table, h.flags, h.bound⟩

/-- After the last byte of its code the device waits for a function command (R110). -/
theorem Sampling.addrByte_last {d : Device} {s : State} (h : Sampling d .addrByte (Addressing 7) s) :
    ∃ t, run 3 s = .next t ∧ Sampling d .readCmd (fun e u => Waiting .funcCmd e ∧ u.dm.k = 0) t := by
  have hdata := h.addrByte_data
  obtain ⟨e, o, hconst, ⟨⟨hst, hi⟩, hk, hj⟩, hx⟩ := h.transfer rfl rfl fun _ _ => rfl
  have hdev := devSlots_matchRom hst hi (by decide)
  rw [hconst.1, Device.matchedTo, if_pos rfl] at hdev
  obtain ⟨hrun, hcalm⟩ := hx hdata hdev rfl
  rw [afterPop_addrByte (s := withDevice _ o s) hj (by decide), if_pos rfl] at hrun hcalm
  exact ⟨_, hrun, hcalm, rfl, ⟨_, rfl, hconst, ⟨rfl, rfl, rfl⟩, hk⟩, h.table, h.flags, h.bound⟩

/-- The device sends its Scratchpad, of which DM.sp has j bytes (R113, R269). -/
abbrev Sending (d : Device) (j : Nat) (e : Device) (u : State) : Prop :=
  (e.state = .readSp ∧ e.i = 8 * j) ∧ u.dm.k = 0 ∧ u.dm.j.toNat = j ∧ ∀ i, i < j → u.dm.sp[i]? = d.sp[i]?

/-- read-scratchpad (R268). -/
theorem Sampling.readCmd {d : Device} {s : State}
    (h : Sampling d .readCmd (fun e u => Waiting .funcCmd e ∧ u.dm.k = 0) s) :
    ∃ t, run 3 s = .next t ∧ Sampling d .spByte (Sending d 0) t := by
  obtain ⟨e, o, hconst, ⟨⟨hst, hsh, hn⟩, hk⟩, hx⟩ := h.transfer rfl rfl fun _ _ => rfl
  have hdev : (devSlots 0xBE#8 8 0 0#8 e).1 = { e with state := .readSp, i := 0 } := devSlots_funcCommand hst hsh hn
  obtain ⟨hrun, hcalm⟩ := hx rfl hdev rfl
  exact ⟨_, hrun, hcalm, rfl, ⟨_, rfl, hconst, ⟨rfl, rfl⟩, hk, rfl, nofun⟩, h.table, h.flags, h.bound⟩

/-- A byte read is the next one of the device's Scratchpad (R113, R269). -/
theorem Sampling.spByte_received {d : Device} {j : Nat} {s : State} (h : Sampling d .spByte (Sending d j) s)
    (hsp : d.sp.length = 9) (hj : j < 9) :
    ∃ e o r, (run 3 s = .next (afterPop (pollExhausted s) .spByte r (withDevice e o s)) ∧
        Calm (afterPop (pollExhausted s) .spByte r (withDevice e o s))) ∧
      (e.rom = d.rom ∧ e.sp = d.sp ∧ e.conv = d.conv) ∧ (e.state = .readSp ∧ e.i = 8 * (j + 1)) ∧
      s.dm.k = 0 ∧ s.dm.j.toNat = j ∧ ∀ i, i < j + 1 → (s.dm.sp.set j r)[i]? = d.sp[i]? := by
  obtain ⟨e, o, hconst, ⟨⟨hst, hi⟩, hk, hj', hprefix⟩, hx⟩ := h.transfer rfl rfl fun _ _ => rfl
  obtain ⟨hdev, hbyte⟩ := devSlots_readSp hst hi hj
  have hlen : s.dm.sp.length = 9 := by
    obtain ⟨-, ⟨⟨-, -, hlen⟩, -⟩, -⟩ := wf_iff.mp h.calm.1
    exact hlen
  refine ⟨_, o, _, hx rfl hdev hbyte, hconst, ⟨hst, rfl⟩, hk, hj', fun i hi => ?_⟩
  by_cases hij : i = j
  · subst hij
    rw [List.getElem?_set_self (by omega), hconst.2.1, List.getD_eq_getElem?_getD, List.getElem?_eq_getElem (by omega)]
    rfl
  · rw [List.getElem?_set_ne (Ne.symm hij)]
    exact hprefix i (by omega)

/-- Before the ninth byte the next one follows. -/
theorem Sampling.spByte {d : Device} {j : Nat} {s : State} (h : Sampling d .spByte (Sending d j) s)
    (hsp : d.sp.length = 9) (hj : j < 8) : ∃ t, run 3 s = .next t ∧ Sampling d .spByte (Sending d (j + 1)) t := by
  obtain ⟨e, o, r, ⟨hrun, hcalm⟩, hconst, hdev, hk, hj', hprefix⟩ := h.spByte_received hsp (by omega)
  have hsucc : (s.dm.j + 1).toNat = j + 1 := (toNat_succ4 (by omega)).trans (congrArg (· + 1) hj')
  have hnext : afterPop (pollExhausted s) .spByte r (withDevice e o s) =
      { takeSpByte r (withDevice e o s) with seq := .push .spByte } := if_pos (by
    show (s.dm.j + 1).toNat < 9
    omega)
  rw [hnext] at hrun hcalm
  rw [← hj'] at hprefix
  exact ⟨_, hrun, hcalm, rfl, ⟨e, rfl, hconst, hdev, hk, hsucc, by rw [← hj']; exact hprefix⟩, h.table, h.flags, h.bound⟩

/-- After the ninth byte the operation ends with the Reading of the device's nine bytes (R270 to R275). -/
theorem Sampling.spByte_last {d : Device} {s : State} (h : Sampling d .spByte (Sending d 8) s) (hsp : d.sp.length = 9) :
    ∃ t, run 3 s = .next t ∧ t.seq = .hostIdle ∧ t.rdgCount = 1 ∧ t.dm.sp = d.sp ∧
      t.rdg[0]? = some (readingOf d.sp) ∧ t.flags = { Flags.clear with crcMismatch := crc8 d.sp != 0#8 } := by
  obtain ⟨e, o, r, ⟨hrun, -⟩, -, -, hk, hj, hprefix⟩ := h.spByte_received hsp (by decide)
  obtain ⟨⟨-, -, ⟨hn, -⟩, -⟩, ⟨⟨-, hrdg, hlen⟩, -⟩, -⟩ := wf_iff.mp h.calm.1
  have hall : s.dm.sp.set 8 r = d.sp := by
    refine List.ext_getElem? fun i => ?_
    by_cases hi : i < 9
    · exact hprefix i hi
    · rw [List.getElem?_eq_none (by rw [List.length_set]; omega), List.getElem?_eq_none (by omega)]
  have hcount : s.dm.k + 1 = s.romCount := by rw [hk, h.table.1]; rfl
  have hend : afterPop (pollExhausted s) .spByte r (withDevice e o s) =
      recordReading { withDevice e o s with dm := { s.dm with sp := d.sp, j := 9 } } := by
    rw [← hall]
    exact afterPop_spByte_last (s := withDevice e o s) (BitVec.eq_of_toNat_eq hj)
  rw [hend, recordReading_eq] at hrun
  refine ⟨_, hrun, if_pos hcount, (if_pos hcount).trans h.table.1, rfl, ?_, ?_⟩
  · have hzero : s.dm.k.toNat = 0 := by rw [hk]; rfl
    show (s.rdg.set s.dm.k.toNat (readingOf d.sp))[0]? = _
    rw [hzero]
    exact List.getElem?_set_self (by omega)
  · show (if crc8 d.sp = 0#8 then s.flags else { s.flags with crcMismatch := true }) = _
    rw [h.flags]
    by_cases hcrc : crc8 d.sp = 0#8
    · rw [if_pos hcrc, hcrc]
      rfl
    · rw [if_neg hcrc, bne_iff_ne.mpr hcrc]

/-! ### The whole operation -/

theorem Sampling.addrBytes {d : Device} {j n : Nat} {s : State} (h : Sampling d .addrByte (Addressing j) s)
    (hn : j + n ≤ 7) : ∃ t, run (3 * n) s = .next t ∧ Sampling d .addrByte (Addressing (j + n)) t := by
  induction n with
  | zero => exact ⟨s, rfl, h⟩
  | succ n ih =>
    obtain ⟨t, hrun, ht⟩ := ih (by omega)
    obtain ⟨u, hrun', hu⟩ := ht.addrByte (by omega)
    exact ⟨u, run_trans hrun hrun', hu⟩

theorem Sampling.spBytes {d : Device} {j n : Nat} {s : State} (h : Sampling d .spByte (Sending d j) s)
    (hsp : d.sp.length = 9) (hn : j + n ≤ 8) :
    ∃ t, run (3 * n) s = .next t ∧ Sampling d .spByte (Sending d (j + n)) t := by
  induction n with
  | zero => exact ⟨s, rfl, h⟩
  | succ n ih =>
    obtain ⟨t, hrun, ht⟩ := ih (by omega)
    obtain ⟨u, hrun', hu⟩ := ht.spByte hsp (by omega)
    exact ⟨u, run_trans hrun hrun', hu⟩

/-- Settles O60: place by place the device is where the operation wants it, and its nine bytes decide the Reading. -/
theorem sampleAllReadsTheDevice : Obligations.SampleAllReadsTheDevice := by
  intro s d hwf hflow hl hquiet hq hflags hbus hsp hcount hcode hconv
  have hs : Calm s := ⟨hwf, hflow, hl, hquiet⟩
  have hstep := sampleAllResets.1 s (.inl (hs.turn (by simp [hq])).1) hq
  rw [moved_transaction _ hl] at hstep
  have h0 : Sampling d .sampleReset (fun _ _ => True) { s with rdgCount := 0, seq := .push .sampleReset } :=
    ⟨hs.step hstep hquiet, rfl, ⟨d, hbus, ⟨rfl, rfl, rfl⟩, trivial⟩, ⟨hcount, hcode⟩, hflags, hconv⟩
  obtain ⟨s1, hrun1, h1⟩ := h0.sampleReset
  obtain ⟨s2, hrun2, h2⟩ := h1.addrAll
  obtain ⟨s3, hrun3, h3⟩ := h2.startConv
  obtain ⟨n, s4, hrun4, h4⟩ := h3.poll
  obtain ⟨s5, hrun5, h5⟩ := h4.devReset
  obtain ⟨s6, hrun6, h6⟩ := h5.addrOne
  obtain ⟨s7, hrun7, h7⟩ := h6.addrBytes (n := 7) (by decide)
  obtain ⟨s8, hrun8, h8⟩ := h7.addrByte_last
  obtain ⟨s9, hrun9, h9⟩ := h8.readCmd
  obtain ⟨s10, hrun10, h10⟩ := h9.spBytes (n := 8) hsp (by decide)
  obtain ⟨t, hrun11, ht⟩ := h10.spByte_last hsp
  exact ⟨_, t, run_trans (run_succ (k := 0) hstep) <| run_trans hrun1 <| run_trans hrun2 <| run_trans hrun3 <|
    run_trans hrun4 <| run_trans hrun5 <| run_trans hrun6 <| run_trans hrun7 <| run_trans hrun8 <| run_trans hrun9 <|
    run_trans hrun10 hrun11, ht⟩

end Sys2Proof.Machine
end

section
/-! PROOFS. ENGINE's ticks at Level C, phase by phase, and the reset element (R165 to R170, R179 a). -/

namespace Sys2Proof.Machine

/-! ### Ticks -/

theorem engineTicks_add (m n : Nat) (s : State) : engineTicks (m + n) s = engineTicks n (engineTicks m s) := by
  induction m generalizing s with
  | zero => rw [Nat.zero_add]; rfl
  | succ m ih => rw [Nat.succ_add_eq_add_succ, Nat.add_succ, engineTicks, engineTicks, ih]

/-- The exit of a timed phase (R165). -/
structure TimedExit (ph : Phase) (exit : State → State) : Prop where
  tick : ∀ a b s, s.eng.phase = ph → engineTick a b s = timed exit s

section
variable {ph : Phase} {exit : State → State} (he : TimedExit ph exit) {s : State} (hp : s.eng.phase = ph)
include he hp

/-- A timed phase counts down (R165). -/
theorem engineTicks_countdown {m : Nat} (hm : m < s.eng.cnt) :
    engineTicks m s = setEngine { s.eng with cnt := s.eng.cnt - m } s := by
  induction m with
  | zero => rfl
  | succ m ih =>
    have htick := he.tick (!s.cmd.isEmpty) (!resFull s) (setEngine { s.eng with cnt := s.eng.cnt - m } s) hp
    have hmore : 1 < s.eng.cnt - m := by omega
    rw [engineTicks_add m 1, ih (by omega)]
    exact htick.trans (if_pos hmore)

/-- The last tick of a timed phase makes its exit (R165). -/
theorem engineTicks_exit (hc : 1 ≤ s.eng.cnt) :
    engineTicks s.eng.cnt s = exit (setEngine { s.eng with cnt := 1 } s) := by
  have hsplit : s.eng.cnt = (s.eng.cnt - 1) + 1 := by omega
  have hone : s.eng.cnt - (s.eng.cnt - 1) = 1 := by omega
  have htick := he.tick (!s.cmd.isEmpty) (!resFull s) (setEngine { s.eng with cnt := 1 } s) hp
  have hbefore := engineTicks_countdown (m := s.eng.cnt - 1) he hp (by omega)
  rw [hone] at hbefore
  calc engineTicks s.eng.cnt s
      = engineAlone (engineTicks (s.eng.cnt - 1) s) := by rw [hsplit, engineTicks_add, Nat.add_sub_cancel]; rfl
    _ = exit (setEngine { s.eng with cnt := 1 } s) := by rw [hbefore]; exact htick.trans (if_neg (Nat.lt_irrefl 1))

end

theorem timedExit_rstLow : TimedExit .rstLow exitRstLow := ⟨fun a b s h => by rw [engineTick, h]⟩
theorem timedExit_rstWait : TimedExit .rstWait exitRstWait := ⟨fun a b s h => by rw [engineTick, h]⟩
theorem timedExit_rstRec : TimedExit .rstRec exitRstRec := ⟨fun a b s h => by rw [engineTick, h]⟩

theorem setEngine_offBus (g : Engine) : OffBus (setEngine g) :=
  ⟨fun _ => rfl, fun _ => rfl, fun _ => rfl, fun _ _ _ _ => rfl⟩

/-- ENGINE in IDLE takes the head of CMD (R166). -/
theorem engineAlone_idle {s : State} {e : Elem} {rest : List Elem} (hp : s.eng.phase = .idle) (hc : s.cmd = e :: rest) :
    engineAlone s = startElem e { s with cmd := rest } := by
  simp [engineAlone, engineTick, hp, hc]

/-! ### The reset element -/

/-- ENGINE in a phase of the reset sequence: the registers it does not use are as they were. -/
def resetEngine (g : Engine) (ph : Phase) (cnt : Nat) (isr : Byte) (drive : Bool) : Engine :=
  { g with phase := ph, cnt := cnt, isr := isr, drive := drive }

/-- RST_LOW to its end: the line is released (R167). -/
theorem engineTicks_rstLow (g : Engine) {s : State} (hL : 1 ≤ s.par.tRstl) :
    engineTicks s.par.tRstl (setEngine (resetEngine g .rstLow s.par.tRstl 0 true) s) =
      setEngine (resetEngine g .rstWait s.par.tPds 0 false) s :=
  engineTicks_exit (s := setEngine (resetEngine g .rstLow s.par.tRstl 0 true) s) timedExit_rstLow rfl hL

/-- RST_WAIT to its end: the presence sample (R168). -/
theorem engineTicks_rstWait (g : Engine) {s : State} (hP : 1 ≤ s.par.tPds) :
    engineTicks s.par.tPds (setEngine (resetEngine g .rstWait s.par.tPds 0 false) s) =
      setEngine (resetEngine g .rstPush 1 (zext8 (busReset s).2) false) (busReset s).1 := by
  refine (engineTicks_exit (s := setEngine (resetEngine g .rstWait s.par.tPds 0 false) s) timedExit_rstWait rfl hP).trans ?_
  have hbus := busReset_offBus (setEngine_offBus (resetEngine g .rstWait 1 0 false)) s
  show exitRstWait (setEngine (resetEngine g .rstWait 1 0 false) s) = _
  rw [exitRstWait, hbus]
  rfl

/-- RST_PUSH with room in RES: the raw level is delivered and the recovery begins (R169). -/
theorem engineTicks_rstPush (g : Engine) (cnt : Nat) (isr : Byte) {s : State} (hroom : s.res.length < s.par.fifoDepth) :
    engineTicks 1 (setEngine (resetEngine g .rstPush cnt isr false) s) =
      setEngine (resetEngine g .rstRec s.par.tRstrec isr false) (pushRes isr s) := by
  have hpush : (!resFull (setEngine (resetEngine g .rstPush cnt isr false) s)) = true := by
    simp [resFull, hroom]
  exact if_pos hpush

/-- RST_REC to its end: ENGINE is in IDLE (R170). -/
theorem engineTicks_rstRec (g : Engine) (isr : Byte) {s : State} (hR : 1 ≤ s.par.tRstrec) :
    engineTicks s.par.tRstrec (setEngine (resetEngine g .rstRec s.par.tRstrec isr false) s) =
      setEngine (resetEngine g .idle 1 isr false) s :=
  engineTicks_exit (s := setEngine (resetEngine g .rstRec s.par.tRstrec isr false) s) timedExit_rstRec rfl hR

/-- The state after a reset sequence but for ENGINE's registers (R161). -/
theorem setEngine_performReset (g : Engine) (s : State) :
    setEngine g (performReset s) = setEngine g (pushRes (zext8 (busReset s).2) (busReset s).1) := by
  obtain ⟨h, -, ha⟩ := afterReset_eq (busReset s)
  rw [performReset, ha]
  rfl

/-- At Level C the reset sequence as one step leaves ENGINE at the begin of the recovery (R161, R169). -/
theorem performReset_cycle {s : State} (hl : s.level = .cycle) :
    performReset s = setEngine (resetEngine s.eng .rstRec s.par.tRstrec (zext8 (busReset s).2) false)
      (pushRes (zext8 (busReset s).2) (busReset s).1) := by
  have hlevel : (busReset s).1.level = .cycle := by rw [busReset_level, hl]
  rw [performReset, afterReset, leaveEngine_eq, hlevel, busReset_eng, busReset_par]
  rfl

/-- The pop of a reset element by a state whose other registers are those of s. -/
def resetStart (s : State) : State := setEngine (resetEngine s.eng .rstLow s.par.tRstl 0 true) s

section
variable {s : State} (hwf : s.par.wf)
include hwf

theorem resetStart_released (n : Nat) :
    engineTicks (s.par.tRstl + n) (resetStart s) =
      engineTicks n (setEngine (resetEngine s.eng .rstWait s.par.tPds 0 false) s) := by
  rw [engineTicks_add, resetStart, engineTicks_rstLow s.eng hwf.1.1]

theorem resetStart_sampled (n : Nat) :
    engineTicks (s.par.tRstl + s.par.tPds + n) (resetStart s) =
      engineTicks n (setEngine (resetEngine s.eng .rstPush 1 (zext8 (busReset s).2) false) (busReset s).1) := by
  rw [engineTicks_add, resetStart_released hwf, engineTicks_rstWait s.eng hwf.1.2.1]

variable (hroom : s.res.length < s.par.fifoDepth)
include hroom

theorem resetStart_delivered (n : Nat) :
    engineTicks (s.par.tRstl + s.par.tPds + 1 + n) (resetStart s) =
      engineTicks n (setEngine (resetEngine s.eng .rstRec s.par.tRstrec (zext8 (busReset s).2) false)
        (pushRes (zext8 (busReset s).2) (busReset s).1)) := by
  have hroom' : (busReset s).1.res.length < (busReset s).1.par.fifoDepth := by simpa using hroom
  rw [engineTicks_add, resetStart_sampled hwf, engineTicks_rstPush s.eng 1 _ hroom', busReset_par]

theorem resetStart_recovered :
    engineTicks (s.par.tRstl + s.par.tPds + s.par.tRstrec + 1) (resetStart s) =
      setEngine (resetEngine s.eng .idle 1 (zext8 (busReset s).2) false) (performReset s) := by
  have hpar : (pushRes (zext8 (busReset s).2) (busReset s).1).par = s.par := by simp
  have hrec := engineTicks_rstRec s.eng (zext8 (busReset s).2) (s := pushRes (zext8 (busReset s).2) (busReset s).1)
    (by rw [hpar]; exact hwf.1.2.2.1)
  rw [hpar] at hrec
  rw [Nat.add_right_comm, resetStart_delivered hwf hroom, hrec, setEngine_performReset]

/-- At the push the state is that of the reset sequence as one step, at Level C with ENGINE's registers too (R161). -/
theorem resetStart_performReset :
    engineTicks (s.par.tRstl + s.par.tPds + 1) (resetStart s) =
      setEngine (resetEngine s.eng .rstRec s.par.tRstrec (zext8 (busReset s).2) false) (performReset s) ∧
    (s.level = .cycle → engineTicks (s.par.tRstl + s.par.tPds + 1) (resetStart s) = performReset s) := by
  have hpush := resetStart_delivered hwf hroom 0
  refine ⟨?_, fun hl => ?_⟩
  · rw [setEngine_performReset]; exact hpush
  · rw [performReset_cycle hl]; exact hpush

/-- At every tick up to the return to IDLE: the line is low in the first `T_RSTL` ticks, ENG.isr is 0 up to the sample, and
BusState is Resetting (R36, R58, R167 to R170). -/
theorem resetStart_eng {n : Nat} (hn : n < s.par.tRstl + s.par.tPds + s.par.tRstrec + 1) :
    ∃ ph cnt isr, (engineTicks n (resetStart s)).eng = resetEngine s.eng ph cnt isr (decide (n < s.par.tRstl)) ∧
      (n < s.par.tRstl + s.par.tPds → isr = 0) ∧ busState ph = .resetting := by
  by_cases hlow : n < s.par.tRstl
  · refine ⟨.rstLow, s.par.tRstl - n, 0, ?_, fun _ => rfl, rfl⟩
    rw [resetStart, engineTicks_countdown timedExit_rstLow rfl hlow, decide_eq_true hlow]
    rfl
  rw [decide_eq_false hlow]
  obtain ⟨m, rfl⟩ := Nat.exists_eq_add_of_le (Nat.le_of_not_lt hlow)
  by_cases hwait : m < s.par.tPds
  · refine ⟨.rstWait, s.par.tPds - m, 0, ?_, fun _ => rfl, rfl⟩
    rw [resetStart_released hwf, engineTicks_countdown timedExit_rstWait rfl hwait]
    rfl
  obtain ⟨k, rfl⟩ := Nat.exists_eq_add_of_le (Nat.le_of_not_lt hwait)
  rw [← Nat.add_assoc]
  cases k with
  | zero =>
    refine ⟨.rstPush, 1, zext8 (busReset s).2, ?_, fun h => absurd h (Nat.lt_irrefl _), rfl⟩
    rw [resetStart_sampled hwf]
    rfl
  | succ k =>
    refine ⟨.rstRec, s.par.tRstrec - k, zext8 (busReset s).2, ?_, fun h => by omega, rfl⟩
    rw [Nat.add_comm k 1, ← Nat.add_assoc, resetStart_delivered hwf hroom,
      engineTicks_countdown timedExit_rstRec rfl (by show k < s.par.tRstrec; omega)]
    rfl

end

/-- The tick that pops a reset element (R166). -/
theorem engineTicks_resetPop {s : State} {e : Elem} {rest : List Elem} (hidle : s.eng.phase = .idle)
    (hc : s.cmd = e :: rest) (hrst : elemRst e = true) (n : Nat) :
    engineTicks (n + 1) s = engineTicks n (resetStart { s with cmd := rest }) := by
  rw [engineTicks, engineAlone_idle hidle hc, startElem, if_pos hrst]
  rfl

/-- Settles O55, from the phases of the reset sequence in order: RST_LOW, RST_WAIT, RST_PUSH, RST_REC, each timed one counted
down by `engineTicks_countdown`; the bus activity commutes with ENGINE's registers (`busReset_offBus`). -/
theorem tickedResetRefinesTheAtomicOne : Obligations.TickedResetRefinesTheAtomicOne := by
  intro s e rest hwf hidle hc hrst hroom
  have hperform : performElem e { s with cmd := rest } = performReset { s with cmd := rest } := if_pos hrst
  rw [hperform]
  have hpop := engineTicks_resetPop hidle hc hrst
  have hwf' : ({ s with cmd := rest } : State).par.wf := hwf
  have hroom' : ({ s with cmd := rest } : State).res.length < ({ s with cmd := rest } : State).par.fifoDepth := hroom
  obtain ⟨hdelivered, hcycle⟩ := resetStart_performReset hwf' hroom'
  have hrecovered := resetStart_recovered hwf' hroom'
  refine ⟨fun n hn => ?_, fun n hn => ?_, fun n hn => ?_, ⟨_, rfl, (hpop _).trans hdelivered⟩,
    ⟨_, rfl, (hpop _).trans hrecovered⟩, fun hl => (hpop _).trans (hcycle hl)⟩
  · rw [hpop]
    obtain hn | rfl := Nat.lt_succ_iff_lt_or_eq.mp hn
    · obtain ⟨ph, cnt, isr, heng, -, -⟩ := resetStart_eng hwf' hroom' hn
      exact congrArg Engine.drive heng
    · have hend : ¬s.par.tRstl + s.par.tPds + s.par.tRstrec + 1 < s.par.tRstl := by omega
      exact (congrArg (fun u => u.eng.drive) hrecovered).trans (decide_eq_false hend).symm
  · have hlt : n < s.par.tRstl + s.par.tPds + s.par.tRstrec + 1 := by omega
    obtain ⟨ph, cnt, isr, heng, hisr, -⟩ := resetStart_eng hwf' hroom' hlt
    rw [hpop]
    exact (congrArg Engine.isr heng).trans (hisr hn)
  · obtain ⟨ph, cnt, isr, heng, -, hbus⟩ := resetStart_eng hwf' hroom' (Nat.lt_of_succ_lt_succ hn)
    rw [hpop]
    exact (congrArg (fun g => busState g.phase) heng).trans hbus

end Sys2Proof.Machine
end

section
/-! PROOFS. A transfer element at Level C, slot by slot (R171 to R177, R179 b). -/

namespace Sys2Proof.Machine

theorem timedExit_slLow : TimedExit .slLow exitSlLow := ⟨fun a b s h => by rw [engineTick, h]⟩
theorem timedExit_slWait1 : TimedExit .slWait1 exitSlWait1 := ⟨fun a b s h => by rw [engineTick, h]⟩
theorem timedExit_slPad1 : TimedExit .slPad1 exitSlPad1 := ⟨fun a b s h => by rw [engineTick, h]⟩
theorem timedExit_slHold0 : TimedExit .slHold0 exitSlHold0 := ⟨fun a b s h => by rw [engineTick, h]⟩
theorem timedExit_slRec : TimedExit .slRec exitSlRec := ⟨fun a b s h => by rw [engineTick, h]⟩

/-- ENGINE's registers in slot k of a transfer of d, r the result so far: bit k is in ENG.cur, the bits above it in ENG.osr. -/
def slotEngine (d : Byte) (k : Nat) (r : Byte) (ph : Phase) (cnt : Nat) (drive : Bool) : Engine :=
  { phase := ph, cnt := cnt, osr := d >>> (k + 1), isr := r, nbit := BitVec.ofNat 4 k, cur := d.getLsbD k, drive := drive }

/-- ENGINE drives the line, or not, and BusState is Transmitting/Receiving. -/
def TransferDrives (b : Bool) (s : State) : Prop := s.eng.drive = b ∧ busState s.eng.phase = .transferring

section
variable {ph : Phase} {exit : State → State} (he : TimedExit ph exit) (d : Byte) (k : Nat) (r : Byte) (b : Bool) (s : State)
include he

theorem slotPhase_drives {c m : Nat} (hph : busState ph = .transferring) (hm : m < c) :
    TransferDrives b (engineTicks m (setEngine (slotEngine d k r ph c b) s)) := by
  rw [engineTicks_countdown (s := setEngine (slotEngine d k r ph c b) s) he rfl hm]
  exact ⟨rfl, hph⟩

theorem slotPhase_exit {c : Nat} (hc : 1 ≤ c) :
    engineTicks c (setEngine (slotEngine d k r ph c b) s) = exit (setEngine (slotEngine d k r ph 1 b) s) :=
  engineTicks_exit (s := setEngine (slotEngine d k r ph c b) s) he rfl hc

end

/-! ### The exits of a slot's phases -/

section
variable (d : Byte) {k : Nat} (r : Byte) (s : State)

theorem exitSlLow_one (hbit : d.getLsbD k = true) :
    exitSlLow (setEngine (slotEngine d k r .slLow 1 true) s) =
      setEngine (slotEngine d k r .slWait1 s.par.tSmp false) s :=
  if_pos hbit

theorem exitSlLow_zero (hbit : d.getLsbD k = false) :
    exitSlLow (setEngine (slotEngine d k r .slLow 1 true) s) =
      setEngine (slotEngine d k r .slHold0 (s.par.tSlot - s.par.tLow) true) s :=
  if_neg (by show ¬d.getLsbD k = true; rw [hbit]; exact Bool.false_ne_true)

/-- ENG.nbit holds the index of the slot (R37). -/
theorem setBit_nbit (hk : k < 16) (b : Bool) : setBit r k b = setBit r (BitVec.ofNat 4 k).toNat b := by
  rw [BitVec.toNat_ofNat, Nat.mod_eq_of_lt hk]

theorem exitSlWait1_slot (hk : k < 16) :
    exitSlWait1 (setEngine (slotEngine d k r .slWait1 1 false) s) =
      setEngine (slotEngine d k (setBit r k (busSlot true s).2) .slPad1 (s.par.tSlot - s.par.tLow - s.par.tSmp) false)
        (busSlot true s).1 := by
  have hbus := busSlot_offBus (setEngine_offBus (slotEngine d k r .slWait1 1 false)) true s
  rw [exitSlWait1, hbus, setBit_nbit r hk]
  rfl

theorem exitSlHold0_slot (hk : k < 16) :
    exitSlHold0 (setEngine (slotEngine d k r .slHold0 1 true) s) =
      setEngine (slotEngine d k (setBit r k (busSlot false s).2) .slRec s.par.tRec false) (busSlot false s).1 := by
  have hbus := busSlot_offBus (setEngine_offBus (slotEngine d k r .slHold0 1 true)) false s
  rw [exitSlHold0, hbus, setBit_nbit r hk]
  rfl

theorem exitSlPad1_slot :
    exitSlPad1 (setEngine (slotEngine d k r .slPad1 1 false) s) =
      setEngine (slotEngine d k r .slRec s.par.tRec false) s := rfl

theorem nbit_succ (hk : k + 1 ≤ s.framing.width) : (BitVec.ofNat 4 k + 1).toNat = k + 1 := by
  have hwidth := framing_width_le s.framing
  have hnext : BitVec.ofNat 4 k + 1 = BitVec.ofNat 4 (k + 1) := BitVec.ofNat_add_ofNat k 1
  rw [hnext, BitVec.toNat_ofNat, Nat.mod_eq_of_lt (by omega)]

/-- ENGINE's registers in the next slot: ENG.osr shifted by one into ENG.cur, ENG.nbit one more (R171, R175). -/
theorem slotEngine_succ (ph : Phase) (cnt : Nat) (drive : Bool) :
    slotEngine d (k + 1) r ph cnt drive =
      { phase := ph, cnt := cnt, osr := d >>> (k + 1) >>> 1, isr := r, nbit := BitVec.ofNat 4 k + 1,
        cur := (d >>> (k + 1)).getLsbD 0, drive := drive } := by
  have hnext : BitVec.ofNat 4 k + 1 = BitVec.ofNat 4 (k + 1) := BitVec.ofNat_add_ofNat k 1
  rw [hnext, BitVec.getLsbD_ushiftRight, ← BitVec.shiftRight_add]
  rfl

/-- After the recovery of a slot that is not the last the next one starts in the same tick (R175). -/
theorem exitSlRec_next (hk : k + 1 < s.framing.width) :
    exitSlRec (setEngine (slotEngine d k r .slRec 1 false) s) =
      setEngine (slotEngine d (k + 1) r .slLow s.par.tLow true) s := by
  have hgo : ¬(BitVec.ofNat 4 k + 1).toNat = s.framing.width := by
    rw [nbit_succ s (Nat.le_of_lt hk)]
    exact Nat.ne_of_lt hk
  rw [slotEngine_succ]
  exact if_neg hgo

/-- ENGINE's registers once the w slots of d with the result r are over. -/
def pushEngine (d : Byte) (w : Nat) (r : Byte) (ph : Phase) : Engine :=
  { phase := ph, cnt := 1, osr := d >>> w, isr := r, nbit := BitVec.ofNat 4 w, cur := d.getLsbD (w - 1), drive := false }

/-- After the recovery of the last slot the result is to be pushed (R175). -/
theorem exitSlRec_last (hk : k + 1 = s.framing.width) :
    exitSlRec (setEngine (slotEngine d k r .slRec 1 false) s) =
      setEngine (pushEngine d s.framing.width r .elPush) s := by
  have hlast : (BitVec.ofNat 4 k + 1).toNat = s.framing.width := (nbit_succ s hk.le).trans hk
  have hnext : BitVec.ofNat 4 k + 1 = BitVec.ofNat 4 (k + 1) := BitVec.ofNat_add_ofNat k 1
  rw [← hk, pushEngine, ← hnext]
  exact if_pos hlast

end

/-! ### A slot -/

/-- Slot k of a transfer of d from state s, r the result so far: at its first tick. -/
def slotStart (d : Byte) (k : Nat) (r : Byte) (s : State) : State :=
  setEngine (slotEngine d k r .slLow s.par.tLow true) s

section
variable (d : Byte) {k : Nat} (r : Byte) {s : State} (hwf : s.par.wf) (hk : k < 16)
include hwf

theorem slotStart_lowOver (n : Nat) :
    engineTicks (s.par.tLow + n) (slotStart d k r s) =
      engineTicks n (exitSlLow (setEngine (slotEngine d k r .slLow 1 true) s)) := by
  rw [engineTicks_add, slotStart, slotPhase_exit timedExit_slLow _ _ _ _ _ hwf.1.2.2.2.1]

include hk

section
variable (hbit : d.getLsbD k = true)
include hbit

/-- In a slot with input bit 1 the line is sampled T_SMP ticks after its release (R172). -/
theorem slotOne_sampled (n : Nat) :
    engineTicks (s.par.tLow + s.par.tSmp + n) (slotStart d k r s) =
      engineTicks n (setEngine (slotEngine d k (setBit r k (busSlot true s).2) .slPad1
        (s.par.tSlot - s.par.tLow - s.par.tSmp) false) (busSlot true s).1) := by
  rw [Nat.add_assoc, slotStart_lowOver d r hwf, exitSlLow_one d r s hbit, engineTicks_add,
    slotPhase_exit timedExit_slWait1 _ _ _ _ _ hwf.1.2.2.2.2.1, exitSlWait1_slot d r s hk]

theorem slotOne_end :
    engineTicks s.par.tSlot (slotStart d k r s) =
      setEngine (slotEngine d k (setBit r k (busSlot true s).2) .slRec s.par.tRec false) (busSlot true s).1 := by
  obtain ⟨⟨-, -, -, hlow, hsmp, -, hslot⟩, -⟩ := id hwf
  have hsplit : s.par.tSlot = s.par.tLow + s.par.tSmp + (s.par.tSlot - s.par.tLow - s.par.tSmp) := by omega
  calc engineTicks s.par.tSlot (slotStart d k r s)
      = engineTicks (s.par.tLow + s.par.tSmp + (s.par.tSlot - s.par.tLow - s.par.tSmp)) (slotStart d k r s) := by
        rw [← hsplit]
    _ = _ := by
        rw [slotOne_sampled d r hwf hk hbit, slotPhase_exit timedExit_slPad1 _ _ _ _ _ (by omega), exitSlPad1_slot,
          busSlot_par]

theorem slotOne_drives {n : Nat} (hn : n < s.par.tSlot) :
    TransferDrives (decide (n < s.par.tLow)) (engineTicks n (slotStart d k r s)) := by
  by_cases hlow : n < s.par.tLow
  · rw [decide_eq_true hlow]
    exact slotPhase_drives timedExit_slLow _ _ _ _ _ rfl hlow
  rw [decide_eq_false hlow]
  obtain ⟨m, rfl⟩ := Nat.exists_eq_add_of_le (Nat.le_of_not_lt hlow)
  by_cases hsmp : m < s.par.tSmp
  · rw [slotStart_lowOver d r hwf, exitSlLow_one d r s hbit]
    exact slotPhase_drives timedExit_slWait1 _ _ _ _ _ rfl hsmp
  obtain ⟨j, rfl⟩ := Nat.exists_eq_add_of_le (Nat.le_of_not_lt hsmp)
  rw [← Nat.add_assoc, slotOne_sampled d r hwf hk hbit]
  exact slotPhase_drives timedExit_slPad1 _ _ _ _ _ rfl (by omega)

end

section
variable (hbit : d.getLsbD k = false)
include hbit

theorem slotZero_end :
    engineTicks s.par.tSlot (slotStart d k r s) =
      setEngine (slotEngine d k (setBit r k (busSlot false s).2) .slRec s.par.tRec false) (busSlot false s).1 := by
  obtain ⟨⟨-, -, -, hlow, hsmp, -, hslot⟩, -⟩ := id hwf
  have hsplit : s.par.tSlot = s.par.tLow + (s.par.tSlot - s.par.tLow) := by omega
  calc engineTicks s.par.tSlot (slotStart d k r s)
      = engineTicks (s.par.tLow + (s.par.tSlot - s.par.tLow)) (slotStart d k r s) := by rw [← hsplit]
    _ = _ := by
        rw [slotStart_lowOver d r hwf, exitSlLow_zero d r s hbit,
          slotPhase_exit timedExit_slHold0 _ _ _ _ _ (by omega), exitSlHold0_slot d r s hk]

omit hk in
theorem slotZero_drives {n : Nat} (hn : n < s.par.tSlot) :
    TransferDrives true (engineTicks n (slotStart d k r s)) := by
  by_cases hlow : n < s.par.tLow
  · exact slotPhase_drives timedExit_slLow _ _ _ _ _ rfl hlow
  obtain ⟨m, rfl⟩ := Nat.exists_eq_add_of_le (Nat.le_of_not_lt hlow)
  rw [slotStart_lowOver d r hwf, exitSlLow_zero d r s hbit]
  exact slotPhase_drives timedExit_slHold0 _ _ _ _ _ rfl (by omega)

end

/-- T_SLOT ticks after its start the slot is done on the bus and its recovery begins (R171 to R174). -/
theorem slot_end :
    engineTicks s.par.tSlot (slotStart d k r s) =
      setEngine (slotEngine d k (setBit r k (busSlot (d.getLsbD k) s).2) .slRec s.par.tRec false)
        (busSlot (d.getLsbD k) s).1 := by
  cases hbit : d.getLsbD k with
  | false => exact slotZero_end d r hwf hk hbit
  | true => exact slotOne_end d r hwf hk hbit

/-- The line in the ticks of a slot and its recovery (R171 to R175). -/
theorem slot_drives {n : Nat} (hn : n < s.par.tSlot + s.par.tRec) :
    TransferDrives (decide (n < if d.getLsbD k then s.par.tLow else s.par.tSlot)) (engineTicks n (slotStart d k r s)) := by
  by_cases hslot : n < s.par.tSlot
  · cases hbit : d.getLsbD k with
    | false =>
      rw [if_neg Bool.false_ne_true, decide_eq_true hslot]
      exact slotZero_drives d r hwf hbit hslot
    | true => exact slotOne_drives d r hwf hk hbit hslot
  have hover : ¬n < if d.getLsbD k then s.par.tLow else s.par.tSlot := by
    obtain ⟨⟨-, -, -, -, -, -, hlow⟩, -⟩ := hwf
    split <;> omega
  rw [decide_eq_false hover]
  obtain ⟨m, rfl⟩ := Nat.exists_eq_add_of_le (Nat.le_of_not_lt hslot)
  rw [engineTicks_add, slot_end d r hwf hk]
  exact slotPhase_drives timedExit_slRec _ _ _ _ _ rfl (by omega)

/-- T_SLOT + T_REC ticks after its start the slot and its recovery are over (R175). -/
theorem slot_recovered :
    engineTicks (s.par.tSlot + s.par.tRec) (slotStart d k r s) =
      exitSlRec (setEngine (slotEngine d k (setBit r k (busSlot (d.getLsbD k) s).2) .slRec 1 false)
        (busSlot (d.getLsbD k) s).1) := by
  rw [engineTicks_add, slot_end d r hwf hk, slotPhase_exit timedExit_slRec _ _ _ _ _ hwf.1.2.2.2.2.2.1]

end

/-! ### The slots of a transfer -/

/-- The begin of slot k of a transfer of d begun in state s. -/
def slotAt (d : Byte) (k : Nat) (s : State) : State := slotStart d k (slots d k 0 0#8 s).2 (slots d k 0 0#8 s).1

section
variable (d : Byte) {s : State} (hwf : s.par.wf)
include hwf

/-- The recovery of slot k over: k + 1 slots are done (R162, R175). -/
theorem slotAt_recovered {k : Nat} (hk : k < s.framing.width) :
    engineTicks (s.par.tSlot + s.par.tRec) (slotAt d k s) =
      exitSlRec (setEngine (slotEngine d k (slots d (k + 1) 0 0#8 s).2 .slRec 1 false) (slots d (k + 1) 0 0#8 s).1) := by
  have hwidth := framing_width_le s.framing
  have hpar : (slots d k 0 0#8 s).1.par = s.par := slots_par ..
  have hslot := slot_recovered d (slots d k 0 0#8 s).2 (s := (slots d k 0 0#8 s).1) (hpar ▸ hwf) (show k < 16 by omega)
  rw [hpar] at hslot
  rw [slots_succ_last, Nat.zero_add]
  exact hslot

/-- Slot k starts k (T_SLOT + T_REC) ticks after the first one (R175). -/
theorem engineTicks_slotAt {k : Nat} (hk : k < s.framing.width) :
    engineTicks (k * (s.par.tSlot + s.par.tRec)) (slotAt d 0 s) = slotAt d k s := by
  induction k with
  | zero => rw [Nat.zero_mul]; rfl
  | succ k ih =>
    have hframing : (slots d (k + 1) 0 0#8 s).1.framing = s.framing := slots_framing ..
    rw [Nat.succ_mul, engineTicks_add, ih (by omega), slotAt_recovered d hwf (by omega),
      exitSlRec_next d _ _ (by rw [hframing]; exact hk)]
    rfl

/-- The last slot and its recovery over: the result is to be pushed (R175). -/
theorem engineTicks_slotsOver :
    engineTicks (s.framing.width * (s.par.tSlot + s.par.tRec)) (slotAt d 0 s) =
      setEngine (pushEngine d s.framing.width (slots d s.framing.width 0 0#8 s).2 .elPush)
        (slots d s.framing.width 0 0#8 s).1 := by
  obtain ⟨k, hk⟩ : ∃ k, k + 1 = s.framing.width := by cases s.framing; exacts [⟨7, rfl⟩, ⟨0, rfl⟩]
  have hframing : (slots d (k + 1) 0 0#8 s).1.framing = s.framing := slots_framing ..
  have hlast := exitSlRec_last d (slots d (k + 1) 0 0#8 s).2 (slots d (k + 1) 0 0#8 s).1 (k := k) (by rw [hframing, hk])
  rw [hframing] at hlast
  calc engineTicks (s.framing.width * (s.par.tSlot + s.par.tRec)) (slotAt d 0 s)
      = engineTicks (s.par.tSlot + s.par.tRec) (engineTicks (k * (s.par.tSlot + s.par.tRec)) (slotAt d 0 s)) := by
        rw [← hk, Nat.succ_mul, engineTicks_add]
    _ = _ := by
        rw [engineTicks_slotAt d hwf (by omega), slotAt_recovered d hwf (by omega), hlast, hk]

/-- The line in the slots of a transfer (R171 to R175). -/
theorem transfer_drives {n : Nat} (hn : n < s.framing.width * (s.par.tSlot + s.par.tRec)) :
    TransferDrives (decide (n % (s.par.tSlot + s.par.tRec) <
        if d.getLsbD (n / (s.par.tSlot + s.par.tRec)) then s.par.tLow else s.par.tSlot))
      (engineTicks n (slotAt d 0 s)) := by
  have hpos : 0 < s.par.tSlot + s.par.tRec := Nat.add_pos_right _ hwf.1.2.2.2.2.2.1
  have hwidth := framing_width_le s.framing
  have hslot : n / (s.par.tSlot + s.par.tRec) < s.framing.width := Nat.div_lt_of_lt_mul (Nat.mul_comm .. ▸ hn)
  generalize hk : n / (s.par.tSlot + s.par.tRec) = k at hslot
  have htime : n = k * (s.par.tSlot + s.par.tRec) + n % (s.par.tSlot + s.par.tRec) := by rw [← hk, Nat.div_add_mod']
  have hticks : engineTicks n (slotAt d 0 s) = engineTicks (n % (s.par.tSlot + s.par.tRec)) (slotAt d k s) := by
    conv_lhs => rw [htime, engineTicks_add, engineTicks_slotAt d hwf hslot]
  have hpar : (slots d k 0 0#8 s).1.par = s.par := slots_par ..
  have hdrives := slot_drives d (slots d k 0 0#8 s).2 (hpar ▸ hwf) (show k < 16 by omega)
    (n := n % (s.par.tSlot + s.par.tRec)) (by rw [hpar]; exact Nat.mod_lt _ hpos)
  rw [hpar] at hdrives
  rw [hticks]
  exact hdrives

variable (hroom : s.res.length < s.par.fifoDepth)
include hroom

/-- EL_PUSH with room in RES: the result is delivered and ENGINE is in IDLE (R177). -/
theorem engineTicks_slotsDelivered :
    engineTicks (s.framing.width * (s.par.tSlot + s.par.tRec) + 1) (slotAt d 0 s) =
      setEngine (pushEngine d s.framing.width (slots d s.framing.width 0 0#8 s).2 .idle)
        (pushRes (slots d s.framing.width 0 0#8 s).2 (slots d s.framing.width 0 0#8 s).1) := by
  have hpush : (!resFull (setEngine (pushEngine d s.framing.width (slots d s.framing.width 0 0#8 s).2 .elPush)
      (slots d s.framing.width 0 0#8 s).1)) = true := by
    simp [resFull, hroom]
  rw [engineTicks_add, engineTicks_slotsOver d hwf]
  exact if_pos hpush

/-- Two ticks after its slots the transfer has left what it leaves as one step, at Level C with ENGINE's registers too
(R162). -/
theorem engineTicks_performXfer :
    engineTicks (s.framing.width * (s.par.tSlot + s.par.tRec) + 1) (slotAt d 0 s) =
      setEngine (pushEngine d s.framing.width (slots d s.framing.width 0 0#8 s).2 .idle) (performXfer d s) ∧
    (s.level = .cycle →
      engineTicks (s.framing.width * (s.par.tSlot + s.par.tRec) + 1) (slotAt d 0 s) = performXfer d s) := by
  have hpush := engineTicks_slotsDelivered d hwf hroom
  refine ⟨?_, fun hl => ?_⟩
  · obtain ⟨g, -, ha⟩ := afterXfer_eq d (slots d s.framing.width 0 0#8 s)
    rw [hpush, performXfer, ha]
    rfl
  · have hlevel : (slots d s.framing.width 0 0#8 s).1.level = .cycle := (slots_level ..).trans hl
    rw [hpush, performXfer, afterXfer, leaveEngine_eq, hlevel, slots_framing]
    rfl

end

/-- The tick that pops a transfer element starts its first slot (R166, R171). -/
theorem engineTicks_transferPop {s : State} {e : Elem} {rest : List Elem} (hidle : s.eng.phase = .idle)
    (hc : s.cmd = e :: rest) (hxfer : elemRst e = false) (n : Nat) :
    engineTicks (n + 1) s = engineTicks n (slotAt (elemData e) 0 { s with cmd := rest }) := by
  rw [engineTicks, engineAlone_idle hidle hc, startElem, if_neg (by rw [hxfer]; exact Bool.false_ne_true)]
  rfl

theorem elemData_getLsbD (e : Elem) {k : Nat} (hk : k < 8) : (elemData e).getLsbD k = e.getLsbD k := by
  rw [elemData, BitVec.getLsbD_setWidth, decide_eq_true hk, Bool.true_and]

/-- Settles O56, by induction on the slots: each is counted down phase by phase (`slot_drives`, `slot_recovered`), its bus
activity commutes with ENGINE's registers (`busSlot_offBus`), and the exit of its recovery starts the next. -/
theorem tickedTransferRefinesTheAtomicOne : Obligations.TickedTransferRefinesTheAtomicOne := by
  intro s e rest hwf hidle hc hxfer hroom
  have hperform : performElem e { s with cmd := rest } = performXfer (elemData e) { s with cmd := rest } :=
    if_neg (by rw [elemRst, hxfer]; exact Bool.false_ne_true)
  rw [hperform]
  have hpop := engineTicks_transferPop hidle hc hxfer
  have hwf' : ({ s with cmd := rest } : State).par.wf := hwf
  have hroom' : ({ s with cmd := rest } : State).res.length < ({ s with cmd := rest } : State).par.fifoDepth := hroom
  obtain ⟨hdelivered, hcycle⟩ := engineTicks_performXfer (elemData e) hwf' hroom'
  have hdrives := fun n => transfer_drives (elemData e) hwf' (n := n)
  have hover := engineTicks_slotsOver (elemData e) hwf'
  refine ⟨fun n hn => ?_, ?_, fun n hn => ?_, ⟨_, rfl, (hpop _).trans hdelivered⟩,
    fun hl => (hpop _).trans (hcycle hl)⟩
  · rw [hpop]
    by_cases hslots : n < s.framing.width * (s.par.tSlot + s.par.tRec)
    · have hwidth := framing_width_le s.framing
      have hslot : n / (s.par.tSlot + s.par.tRec) < s.framing.width := Nat.div_lt_of_lt_mul (Nat.mul_comm .. ▸ hslots)
      rw [decide_eq_true hslots, Bool.true_and, ← elemData_getLsbD e (show _ < 8 by omega)]
      exact (hdrives n hslots).1
    · rw [decide_eq_false hslots, Bool.false_and]
      obtain rfl | rfl : n = s.framing.width * (s.par.tSlot + s.par.tRec) ∨
          n = s.framing.width * (s.par.tSlot + s.par.tRec) + 1 := by omega
      · exact congrArg (fun u => u.eng.drive) hover
      · exact congrArg (fun u => u.eng.drive) hdelivered
  · rw [hpop]
    rfl
  · rw [hpop]
    obtain hn | rfl := Nat.lt_succ_iff_lt_or_eq.mp (Nat.lt_of_succ_lt_succ hn)
    · exact (hdrives n hn).2
    · exact congrArg (fun u => busState u.eng.phase) hover

end Sys2Proof.Machine
end
